-- ==== Sys2Proof/Word.lean ====
section
/-!
DEFINITION. The widths of `spec/00_scope.md` R2 and R3: bytes of MEM, 16-bit operand
registers, the 32-bit data path of both ports, and the two kinds of port address.
-/

namespace Sys2Proof

/-- A byte of the mask memory (R3: bits 7..0). -/
abbrev Byte := BitVec 8

/-- The stored value of an operand register (R2: 16 bits each). -/
abbrev Half := BitVec 16

/-- A word of the 32-bit data path of the register port and the memory port (R2). -/
abbrev Word := BitVec 32

/-- A command number, the field OP of a CMD word (R2: 4 bits). -/
abbrev OpCode := BitVec 4

/-- An offset of the 4096-byte register space, 0x000..0xFFF (R2, R9). -/
abbrev RegOffset := BitVec 12

/-- A byte address on the memory port (R2: 32 bits). -/
abbrev MemAddr := BitVec 32

end Sys2Proof
end

