-- ==== Sys2Proof/Syntax.lean ====
section
/-!
DEFINITION. The command set "PMR command set version 1", one constructor for each row of
`spec/opcode_table.json`.
-/

namespace Sys2Proof

/-- A command of the block (`spec/30_encoding.md` R45). A command has no operand of its own:
R44 takes every operand from the operand registers at issue, and R43 leaves bits 31..4 of the
word undecoded, so a constructor carries nothing. -/
inductive Instr where
  /-- OP 1: zero the canvas, then draw the rectangle (`spec/40_commands.md` R56). -/
  | rasterize
  /-- OP 2: zero the canvas (R57). -/
  | clear
  /-- OP 3: OR the rectangle into the bitmap that MEM holds (R58). -/
  | drawRect
  deriving DecidableEq, Repr

end Sys2Proof
end

