-- ==== Sys2Proof/WellFormed.lean ====
section
/-!
DEFINITION. What is well formed: a command (nothing to check), a CMD word written by the
convention of R43, and the size of the mask memory (R1).
-/

namespace Sys2Proof

/-- Every term of `Instr` is a command: R44 gives a command no field of its own, so there is no
operand that a range check could refuse. Words that are no command never become an `Instr`
(`decode` refuses them by name). -/
def Instr.wellFormed : Instr → Bool
  | .rasterize => true
  | .clear => true
  | .drawRect => true

/-- A CMD word that follows the convention of R43, "writing 0 is the convention of this spec's
programs": its ignored bits 31..4 are 0. A word that breaks it is decoded all the same. -/
def conventionalWord (w : Word) : Bool :=
  w.toNat < 16

/-- R1: the bounds of the parameter `MASK_MEM_BYTES`, 1 to 2^29. -/
def memSizeWellFormed (n : Nat) : Bool :=
  decide (1 ≤ n) && decide (n ≤ 536870912)

end Sys2Proof
end

