-- ==== Sys2Proof/Decode.lean ====
section
/-!
DEFINITION. The command decoder and encoder of `spec/30_encoding.md` R43, R45 and R46.
-/

namespace Sys2Proof

/-- Why a word is no command. -/
inductive DecodeError where
  /-- R46: OP is 0x0 or 0x4..0xF. Issuing such a word ends in ILLEGAL_COMMAND, which is an
  error completion and not a stop of the machine. -/
  | illegalOp (op : OpCode)
  deriving DecidableEq, Repr

/-- The field OP of a CMD word, bits 3..0 (R43). -/
def opField (w : Word) : OpCode :=
  w.extractLsb' 0 4

/-- The command number of each command (R45). -/
def opcodeOf : Instr → OpCode
  | .rasterize => 0x1#4
  | .clear => 0x2#4
  | .drawRect => 0x3#4

/-- The opcode map of R45; every other OP is refused by name (R46). -/
def decodeOp (op : OpCode) : Except DecodeError Instr :=
  if op = 0x1#4 then .ok .rasterize
  else if op = 0x2#4 then .ok .clear
  else if op = 0x3#4 then .ok .drawRect
  else .error (.illegalOp op)

/-- The decoder, total on words: "A decoder reads `OP = word & 0xF` and nothing else" (R45). -/
def decode (w : Word) : Except DecodeError Instr :=
  decodeOp (opField w)

/-- The word of a command whose ignored bits 31..4 hold `hi` (R43). -/
def encodeWith (hi : BitVec 28) (i : Instr) : Word :=
  hi ++ opcodeOf i

/-- The conventional word of a command, ignored bits 0 (R43, R45). -/
def encode (i : Instr) : Word :=
  encodeWith 0#28 i

/-- The command read from a table word of `nbits` bits. A CMD word is one 32-bit register write,
so it has no bytes to lay out; bits at and above `nbits` are 0. -/
def decodeTableWord (nbits w : Nat) : Option Instr :=
  match decode (BitVec.ofNat 32 (w % 2 ^ nbits)) with
  | .ok i => some i
  | .error _ => none

end Sys2Proof
end

