-- ==== Sys2Proof/Config.lean ====
section
/-!
DEFINITION. What an instance of the block fixes, and the free values: constants without a body,
of which nothing can be proved but their type.
-/

namespace Sys2Proof

/-- `MASK_MEM_BYTES - 1` of this instance. R1 and D-OPEN-1 leave the size open between 1 and
2^29; the type holds exactly these values. (DESIGN CHOICE, safe: assumption log 2.) -/
opaque Config.maskMemTop : Fin 536870912

/-- The parameter `MASK_MEM_BYTES` of this instance (R1). (DESIGN CHOICE, safe: log 2.) -/
def Config.maskMemBytes : Nat :=
  Config.maskMemTop.val + 1

/-- FREE VALUE. The byte that MEM holds at an address after a reset, until something writes it:
R87 says that a model must treat each as any byte value. The first argument counts the resets,
the second is the address. (DESIGN CHOICE, safe: assumption log 3.) -/
opaque Config.unspecifiedByte : Nat → Nat → Byte

/-- FREE VALUE. The 100 bits of the latch `L` after a reset (R22, R86: unspecified and unread).
The argument counts the resets. (DESIGN CHOICE, unsafe as a reset value: assumption log 4.) -/
opaque Config.unspecifiedLatch : Nat → BitVec 100

/-- FREE VALUE. How many other steps of the total order fall between the issue step of an
accepted command and its completion step (R93: finite and unspecified). The argument counts the
accepted commands. (DEDUCED, safe: assumption log 5.) -/
opaque Config.completionDelay : Nat → Nat

end Sys2Proof
end

