-- ==== Sys2Proof/Machine/State.lean ====
section
/-!
DEFINITION. The state of the block: everything `spec/10_state.md` R8 counts, as plain data, and
the model's own fields that say what the next step of the total order (R39) is. The state right
after reset.
-/

namespace Sys2Proof.Machine

/-- The result codes of STATUS.ERR (`spec/60_exceptions.md` R71). Codes 4..15 are never produced
and have no constructor. -/
inductive ErrorCode where
  /-- Code 0: no error. -/
  | none
  /-- Code 1: the canvas does not fit MEM (R73). -/
  | invalidInputSize
  /-- Code 2: RECT_H is 0 or the rectangle passes the canvas (R74). -/
  | invalidRectangle
  /-- Code 3: OP is not 1, 2 or 3 (R72). -/
  | illegalCommand
  deriving DecidableEq, Repr

/-- The latch `L` of R22: the operands of the command last issued, as the registers held them
(DEDUCED, safe: assumption log 12).
The integers R44 makes of the fields are in `Operands.lean` (`Latch.pitch`, `Latch.leftX`, …). -/
structure Latch where
  /-- `L.op`. -/
  op : OpCode
  /-- `L.cw`, the stored CANVAS_W. -/
  cw : Half
  /-- `L.ch`, the stored CANVAS_H. -/
  ch : Half
  /-- `L.x`, the stored RECT_X; its value is its two's-complement reading. -/
  x : Half
  /-- `L.y`, the stored RECT_Y. -/
  y : Half
  /-- `L.w`, the stored RECT_W. -/
  w : Half
  /-- `L.h`, the stored RECT_H. -/
  h : Half
  deriving DecidableEq, Repr

/-- The mask memory MEM (R24). `cells` lists every byte that something has written since the
last reset, addresses strictly rising; a byte that it does not list still holds the unspecified
value of that reset, which `generation` selects (R87). (DESIGN CHOICE, safe: assumption log
3.) -/
structure Memory where
  /-- The written bytes, addresses strictly rising. -/
  cells : List Host.Cell
  /-- How many resets the memory has seen. -/
  generation : Nat
  deriving DecidableEq, Repr

/-- One line of what reaches the block from outside: a transaction of the host program of
`spec/30_encoding.md` R49, a pseudo-operation, or a reset (R86). The width of an access is in
bits; R27 to R31 say which widths a port takes. -/
inductive Input where
  /-- `rd OFF`, a read on the register port. -/
  | regRead (width : Nat) (offset : RegOffset)
  /-- `wr OFF, V`, a write on the register port. -/
  | regWrite (width : Nat) (offset : RegOffset) (value : Word)
  /-- `mrd8 A` or `mrd32 A`, a read on the memory port. -/
  | memRead (width : Nat) (address : MemAddr)
  /-- `mwr8 A, V` or `mwr32 A, V`, a write on the memory port. -/
  | memWrite (width : Nat) (address : MemAddr) (value : Word)
  /-- `poll`: reads of STATUS until BUSY is 0 (R47). -/
  | poll
  /-- `run OP`: a write of the word to CMD, then `poll` (R48). -/
  | run (word : Word)
  /-- The external reset event (R86). -/
  | reset
  deriving DecidableEq, Repr

/-- What a port answers to one access. -/
inductive Response where
  /-- A write was taken. -/
  | written
  /-- The byte an 8-bit memory read returned (R29). -/
  | data8 (b : Byte)
  /-- The word a 32-bit read returned (R27, R30). -/
  | data32 (v : Word)
  /-- BUS_ERROR: the access was not taken, and a read gets no data (R78). (DEDUCED, safe:
  assumption log 10.) -/
  | busError
  deriving DecidableEq, Repr

/-- Why a step stops with a fault. -/
inductive Fault where
  /-- Raised by `Machine.fetch` where it is the ENGINE's turn and the pending command's OP is no
  command. Safe: R54 makes only a validated command pending, so no run from reset reaches it
  (`Machine.Inv` rules it out), and the spec gives such a state no step. (DEDUCED: assumption
  log 14.) -/
  | pendingOpIllegal (op : OpCode)
  deriving DecidableEq, Repr

/-- Why a step is refused. -/
inductive Refusal where
  /-- The arm of a command that has no meaning. Safe. No arm raises it: every row of the opcode
  table has its meaning. -/
  | notModelled (mnemonic : String)
  deriving DecidableEq, Repr

/-- The block's state (R8), then the model's own fields. CMD stores nothing (R11) and PITCH is
computed from CANVAS_W (R20), so neither has a field; the pending-command bit of R23 is BUSY. -/
structure State where
  /-- CANVAS_W, R14. -/
  canvasW : Half
  /-- CANVAS_H, R15. -/
  canvasH : Half
  /-- RECT_X, R16. -/
  rectX : Half
  /-- RECT_Y, R17. -/
  rectY : Half
  /-- RECT_W, R18. -/
  rectW : Half
  /-- RECT_H, R19. -/
  rectH : Half
  /-- MEM_SIZE, R21: the instance's `MASK_MEM_BYTES`, which no step changes. -/
  memSize : Word
  /-- STATUS.BUSY, R12, and the pending-command bit, R23. -/
  busy : Bool
  /-- STATUS.DONE, R12. -/
  done : Bool
  /-- STATUS.OVR, R12. -/
  ovr : Bool
  /-- STATUS.ERR, R12. -/
  err : ErrorCode
  /-- The latch `L`, R22. -/
  latch : Latch
  /-- MEM, R24. -/
  mem : Memory
  /-- MODEL. While BUSY = 1: how many steps of the total order still come before the completion
  step (R93). (DEDUCED, safe: assumption log 5.) -/
  delay : Nat
  /-- MODEL. How many commands have been accepted; it selects the next free delay. -/
  accepted : Nat
  /-- MODEL. What HOST and the reset line still present, first to come first.
  (DESIGN CHOICE, safe: assumption log 1; a reset line among them, DEDUCED: log 15.) -/
  inputs : List Input
  /-- MODEL. What the ports have answered, latest first. (DESIGN CHOICE, safe: assumption log 1.) -/
  responses : List Response
  deriving DecidableEq, Repr

/-- The latch whose 100 bits are given, OP in the lowest four. (DESIGN CHOICE, unsafe as a
reset value: assumption log 4.) -/
def Latch.ofBits (b : BitVec 100) : Latch where
  op := b.extractLsb' 0 4
  cw := b.extractLsb' 4 16
  ch := b.extractLsb' 20 16
  x := b.extractLsb' 36 16
  y := b.extractLsb' 52 16
  w := b.extractLsb' 68 16
  h := b.extractLsb' 84 16

/-- The machine after its first reset (R86, R87): registers and STATUS 0, no command pending,
every byte of MEM and the latch unspecified, and nothing presented by the host yet. The values of
the latch and of the model's own fields are DESIGN CHOICE, unsafe: assumption logs 4 and 7. -/
def State.reset : State where
  canvasW := 0#16
  canvasH := 0#16
  rectX := 0#16
  rectY := 0#16
  rectW := 0#16
  rectH := 0#16
  memSize := BitVec.ofNat 32 Config.maskMemBytes
  busy := false
  done := false
  ovr := false
  err := .none
  latch := Latch.ofBits (Config.unspecifiedLatch 0)
  mem := { cells := [], generation := 0 }
  delay := 0
  accepted := 0
  inputs := []
  responses := []

end Sys2Proof.Machine
end

