-- ==== Sys2Proof/Machine/Flags.lean ====
section
/-!
DEFINITION. The STATUS register (`spec/10_state.md` R12, R13): the codes of ERR, the word that a
read returns, and what a write clears.
-/

namespace Sys2Proof.Machine

/-- The code of an error, STATUS bits 7..4 (R71). -/
def ErrorCode.code : ErrorCode → BitVec 4
  | .none => 0#4
  | .invalidInputSize => 1#4
  | .invalidRectangle => 2#4
  | .illegalCommand => 3#4

/-- One flag as a field of a word. -/
def flagBit (b : Bool) : Word :=
  if b then 1#32 else 0#32

/-- `STATUS = BUSY | (DONE << 1) | (OVR << 2) | (ERR << 4)`; every other bit reads 0 (R12). -/
def State.statusWord (s : State) : Word :=
  flagBit s.busy ||| (flagBit s.done <<< 1) ||| (flagBit s.ovr <<< 2) |||
    (s.err.code.setWidth 32 <<< 4)

/-- A write to STATUS: DONE and OVR are write-1-to-clear, every other bit of the word is ignored,
whatever BUSY is (R13). -/
def State.writeStatus (s : State) (v : Word) : State :=
  { s with done := s.done && !v.getLsbD 1, ovr := s.ovr && !v.getLsbD 2 }

end Sys2Proof.Machine
end

