-- ==== Sys2Proof/Machine/Operands.lean ====
section
/-!
DEFINITION. The operands of a command as integers (`spec/30_encoding.md` R44) and the byte and
bit coordinates of a span (`spec/41_span.md` R63 to R65). Everything is on unbounded integers
(`spec/00_scope.md` R4), so nothing wraps.
-/

namespace Sys2Proof.Machine

/-- `sval(v[15:0])` of R4: the two's-complement value of a 16-bit field. -/
def sval (v : Half) : Int :=
  if v.getLsbD 15 then (v.toNat : Int) - 65536 else (v.toNat : Int)

/-- `zext_32(v)` of R4. -/
def zext32 (v : Half) : Word :=
  v.setWidth 32

/-- `ceil_div(a, b)` of R6 for `b > 0`: the least `q` with `q * b ≥ a`. -/
def ceilDiv (a b : Nat) : Nat :=
  (a + b - 1) / b

/-- `trunc8(v)` of R5: the low 8 bits. -/
def trunc8 (v : Nat) : Byte :=
  BitVec.ofNat 8 v

/-- Bytes per bitmap row for a canvas of `cw` pixels (R33). -/
def pitchOf (cw : Half) : Nat :=
  ceilDiv cw.toNat 8

/-- `pitch` of the latched canvas (R44). -/
def Latch.pitch (l : Latch) : Nat :=
  pitchOf l.cw

/-- The number of bytes of the latched canvas, `pitch * L.ch` (R33). -/
def Latch.canvasBytes (l : Latch) : Nat :=
  l.pitch * l.ch.toNat

/-- `L.x` as a signed number (R44). -/
def Latch.leftX (l : Latch) : Int :=
  sval l.x

/-- `rightX = x + w` (R44). -/
def Latch.rightX (l : Latch) : Int :=
  sval l.x + (l.w.toNat : Int)

/-- `bottom = y + h` (R44). -/
def Latch.bottom (l : Latch) : Nat :=
  l.y.toNat + l.h.toNat

/-- The latch that an issue fills: OP from the CMD word, the rest from the operand registers as
they stand (R50). -/
def State.latched (s : State) (op : OpCode) : Latch where
  op := op
  cw := s.canvasW
  ch := s.canvasH
  x := s.rectX
  y := s.rectY
  w := s.rectW
  h := s.rectH

/-- `MASK_MEM_BYTES`, which MEM_SIZE holds (R1, R21). -/
def State.memBytes (s : State) : Nat :=
  s.memSize.toNat

/-- `leftByte` and `rightByte` of R63: `x >> 3`. -/
def byteIndex (x : Nat) : Nat :=
  x >>> 3

/-- `leftBitOffset` and `rightBitRemainder` of R63: `x & 7`. -/
def bitOffset (x : Nat) : Nat :=
  x &&& 7

/-- The mask of the left boundary byte, bits `leftBitOffset .. 7` (R65 (ii)). -/
def leftMask (leftBitOffset : Nat) : Byte :=
  trunc8 (0xFF <<< leftBitOffset)

/-- The mask of the right boundary byte, bits `0 .. rightBitRemainder - 1` (R65 (iii)). -/
def rightMask (rightBitRemainder : Nat) : Byte :=
  trunc8 (0xFF >>> (8 - rightBitRemainder))

/-- The mask of the single-byte case, bits `leftBitOffset .. leftBitOffset + width - 1` (R64). -/
def singleMask (leftBitOffset width : Nat) : Byte :=
  trunc8 (0xFF <<< leftBitOffset) &&& trunc8 (0xFF >>> (8 - leftBitOffset - width))

end Sys2Proof.Machine
end

