-- ==== Sys2Proof/Machine/Ops.lean ====
section
/-!
DEFINITION. The named operations: bytes and words of MEM, the two ports, the life of a command
(issue, validation, error completion, acceptance, completion), the span procedure, and reset.
-/

namespace Sys2Proof.Machine

/-! ### MEM (`spec/20_memory.md` R29, R30, R37) -/

/-- The byte listed for an address, if something has written it. -/
def listedByte : List Host.Cell → Nat → Option Byte
  | [], _ => none
  | c :: cs, a => if c.1 = a then some c.2 else listedByte cs a

/-- The list with the byte at an address set, addresses kept rising. -/
def putByte : List Host.Cell → Nat → Byte → List Host.Cell
  | [], a, v => [(a, v)]
  | c :: cs, a, v =>
    if a < c.1 then (a, v) :: c :: cs
    else if c.1 = a then (a, v) :: cs
    else c :: putByte cs a v

/-- The canonical form of the memory list: addresses strictly rising. -/
abbrev Memory.wf (m : Memory) : Prop :=
  m.cells.Pairwise (fun c d => c.1 < d.1)

/-- What an unlisted address reads as: the unspecified value of the last reset (R87). -/
def Memory.unlisted (m : Memory) (a : Nat) : Byte :=
  Config.unspecifiedByte m.generation a

/-- `MEM[a]` (R7). -/
def Memory.read (m : Memory) (a : Nat) : Byte :=
  match listedByte m.cells a with
  | some v => v
  | none => m.unlisted a

/-- `MEM[a] <- v` (R7). -/
def Memory.write (m : Memory) (a : Nat) (v : Byte) : Memory :=
  { m with cells := putByte m.cells a v }

/-- `MemRead(a, 4)`, little-endian (R30). -/
def Memory.readWord (m : Memory) (a : Nat) : Word :=
  m.read (a + 3) ++ m.read (a + 2) ++ m.read (a + 1) ++ m.read a

/-- `MemWrite(a, 4, v)`, little-endian, all four bytes in one step (R30). -/
def Memory.writeWord (m : Memory) (a : Nat) (v : Word) : Memory :=
  (((m.write a (v.extractLsb' 0 8)).write (a + 1) (v.extractLsb' 8 8)).write
    (a + 2) (v.extractLsb' 16 8)).write (a + 3) (v.extractLsb' 24 8)

/-- The OR update `MEM[a] <- MEM[a] | v` (R37). -/
def Memory.orByte (m : Memory) (a : Nat) (v : Byte) : Memory :=
  m.write a (m.read a ||| v)

/-- `for i in [a, a + n): MEM[i] <- v`, ascending. -/
def Memory.fill (m : Memory) (a : Nat) : Nat → Byte → Memory
  | 0, _ => m
  | n + 1, v => (m.write a v).fill (a + 1) n v

/-- The memory after a reset: every byte unspecified anew (R87, R88). -/
def Memory.afterReset (m : Memory) : Memory :=
  { cells := [], generation := m.generation + 1 }

/-! ### The span (`spec/41_span.md` R60 to R65) -/

/-- Steps 3 to 5 of R60 for a span `[left, right)` that is not empty. -/
def drawSpanBytes (base left right : Nat) (m : Memory) : Memory :=
  let leftByte := byteIndex left
  let rightByte := byteIndex right
  let width := right - left
  if leftByte = rightByte ∧ bitOffset left + width < 8 then
    m.orByte (base + leftByte) (singleMask (bitOffset left) width)
  else
    let interior := m.fill (base + (leftByte + 1)) (rightByte - (leftByte + 1)) 0xFF#8
    let leftDone := interior.orByte (base + leftByte) (leftMask (bitOffset left))
    if bitOffset right ≠ 0 then
      leftDone.orByte (base + rightByte) (rightMask (bitOffset right))
    else leftDone

/-- `DrawMaskedSpan(base, leftX, rightX)` of R60: the left clamp (R61), the empty span (R62),
then the bytes. -/
def drawMaskedSpan (base : Nat) (leftX rightX : Int) (m : Memory) : Memory :=
  let left := max leftX 0
  if rightX - left ≤ 0 then m
  else drawSpanBytes base left.toNat rightX.toNat m

/-- The rows `r` of `[r, r + n)`, ascending, each with the same span (R56, R58). -/
def drawRows (pitch : Nat) (leftX rightX : Int) (r : Nat) : Nat → Memory → Memory
  | 0, m => m
  | n + 1, m => drawRows pitch leftX rightX (r + 1) n (drawMaskedSpan (r * pitch) leftX rightX m)

/-- "for a in [0, pitch * L.ch): MEM[a] <- 0x00" (R56, R57). -/
def zeroCanvas (l : Latch) (m : Memory) : Memory :=
  m.fill 0 l.canvasBytes 0x00#8

/-- "for r in [L.y, L.y + L.h): DrawMaskedSpan(r * pitch, L.x, L.x + L.w)" (R56, R58). -/
def drawRectangle (l : Latch) (m : Memory) : Memory :=
  drawRows l.pitch l.leftX l.rightX l.y.toNat l.h.toNat m

/-! ### What a step of HOST does to the model's own fields -/

/-- The inputs after the first was performed; a `run` leaves its `poll` (R48). -/
def inputsAfter : List Input → List Input
  | [] => []
  | .run _ :: rest => .poll :: rest
  | _ :: rest => rest

/-- A step of HOST: the port's answer is recorded and the completion comes one step nearer. -/
def respond (r : Response) (s : State) : State :=
  { s with responses := r :: s.responses, delay := s.delay - 1 }

/-- A step of HOST after which the host goes on to its next line. -/
def retire (r : Response) (s : State) : State :=
  { respond r s with inputs := inputsAfter s.inputs }

/-! ### The life of a command (`spec/40_commands.md` R50 to R55) -/

/-- `Validate(L)` of R52 for a memory of `memBytes` bytes, the checks in the order of R75. -/
def validate (l : Latch) (memBytes : Nat) : ErrorCode :=
  if l.op ≠ 0x1#4 ∧ l.op ≠ 0x2#4 ∧ l.op ≠ 0x3#4 then .illegalCommand
  else if memBytes < l.canvasBytes then .invalidInputSize
  else if l.op = 0x1#4 ∨ l.op = 0x3#4 then
    if l.h.toNat = 0 then .invalidRectangle
    else if l.ch.toNat < l.bottom then .invalidRectangle
    else if (l.cw.toNat : Int) < l.rightX then .invalidRectangle
    else .none
  else .none

/-- `ErrorComplete(e)` of R53 and R76, the block's one way of taking an error: ERR and DONE are
written and nothing else. -/
def errorComplete (e : ErrorCode) (s : State) : State :=
  { s with err := e, done := true }

/-- `Accept()` of R54: the command becomes pending; its completion delay is a fresh free value
(R93). -/
def accept (s : State) : State :=
  { s with busy := true, delay := Config.completionDelay s.accepted, accepted := s.accepted + 1 }

/-- The issue step of R50: the latch is filled, DONE and ERR are cleared, then the command is
validated and either ended with its error or accepted. -/
def issue (op : OpCode) (s : State) : State :=
  let cleared := { retire .written s with latch := s.latched op, done := false, err := .none }
  match validate (s.latched op) s.memBytes with
  | .none => accept cleared
  | e => errorComplete e cleared

/-- A CMD write while BUSY = 1: the word is lost and OVR is set (R51, R79). -/
def overrun (s : State) : State :=
  { retire .written s with ovr := true }

/-- A write to CMD by HOST (R11): an issue with BUSY = 0, an overrun with BUSY = 1. -/
def hostCommand (op : OpCode) (s : State) : State :=
  if s.busy then overrun s else issue op s

/-- The next step of the total order is the ENGINE's: a command is pending and its delay has run
out (R55, R93). -/
def State.engineTurn (s : State) : Bool :=
  s.busy && s.delay == 0

/-- The completion step of R55 for a command with the memory effect `effect`. -/
def complete (effect : Latch → Memory → Memory) (s : State) : State :=
  { s with mem := effect s.latch s.mem, busy := false, done := true, err := .none }

/-- One step of the life of the command with number `op`: its completion by the ENGINE where that
command is pending and its completion is due (R55), else the write of it to CMD by HOST (R11).
(DESIGN CHOICE, safe: assumption log 8.) -/
def commandStep (op : OpCode) (effect : Latch → Memory → Memory) (s : State) : State :=
  if s.engineTurn && s.latch.op == op then complete effect s else hostCommand op s

/-! ### The register port (`spec/10_state.md` R9 to R21, `spec/20_memory.md` R27, R28) -/

/-- The register port takes 32-bit accesses at offsets that are multiples of 4 (R27, R28). -/
def regTakes (width : Nat) (offset : RegOffset) : Bool :=
  width == 32 && offset.toNat % 4 == 0

/-- The value a register reads as; a reserved word offset and CMD read 0 (R10 to R21). -/
def regRead (s : State) (offset : RegOffset) : Word :=
  if offset = 0x004#12 then s.statusWord
  else if offset = 0x008#12 then zext32 s.canvasW
  else if offset = 0x00C#12 then zext32 s.canvasH
  else if offset = 0x010#12 then zext32 s.rectX
  else if offset = 0x014#12 then zext32 s.rectY
  else if offset = 0x018#12 then zext32 s.rectW
  else if offset = 0x01C#12 then zext32 s.rectH
  else if offset = 0x020#12 then BitVec.ofNat 32 (pitchOf s.canvasW)
  else if offset = 0x024#12 then s.memSize
  else 0#32

/-- A write to a register other than CMD: the low 16 bits of an operand register, write-1-to-clear
for STATUS, nothing for PITCH, MEM_SIZE and the reserved offsets (R10 to R21). -/
def regWrite (s : State) (offset : RegOffset) (v : Word) : State :=
  if offset = 0x004#12 then s.writeStatus v
  else if offset = 0x008#12 then { s with canvasW := v.setWidth 16 }
  else if offset = 0x00C#12 then { s with canvasH := v.setWidth 16 }
  else if offset = 0x010#12 then { s with rectX := v.setWidth 16 }
  else if offset = 0x014#12 then { s with rectY := v.setWidth 16 }
  else if offset = 0x018#12 then { s with rectW := v.setWidth 16 }
  else if offset = 0x01C#12 then { s with rectH := v.setWidth 16 }
  else s

/-- A read access on the register port (R27). -/
def regReadAccess (width : Nat) (offset : RegOffset) (s : State) : State :=
  if regTakes width offset then retire (.data32 (regRead s offset)) s else retire .busError s

/-- A write access on the register port (R28); at offset 0x000 it is a CMD write (R11). -/
def regWriteAccess (width : Nat) (offset : RegOffset) (v : Word) (s : State) : State :=
  if regTakes width offset then
    if offset = 0x000#12 then hostCommand (opField v) s
    else retire .written (regWrite s offset v)
  else retire .busError s

/-! ### The memory port (`spec/20_memory.md` R29 to R32) -/

/-- The memory port takes 8-bit accesses inside MEM and aligned 32-bit accesses inside MEM, both
only while BUSY = 0 (R29 to R32). -/
def memTakes (s : State) (width : Nat) (address : MemAddr) : Bool :=
  !s.busy &&
    ((width == 8 && decide (address.toNat < s.memBytes)) ||
      (width == 32 && address.toNat % 4 == 0 && decide (address.toNat + 3 < s.memBytes)))

/-- What a taken read returns: the byte (R29) or the little-endian word (R30). -/
def memData (m : Memory) (width : Nat) (address : MemAddr) : Response :=
  if width = 8 then .data8 (m.read address.toNat) else .data32 (m.readWord address.toNat)

/-- What a taken write does: a byte (R29; the data is bits 7..0, DEDUCED, unsafe for wider data:
assumption log 9) or a little-endian word (R30). -/
def memStore (m : Memory) (width : Nat) (address : MemAddr) (v : Word) : Memory :=
  if width = 8 then m.write address.toNat (v.extractLsb' 0 8) else m.writeWord address.toNat v

/-- A read access on the memory port (R29 to R32). -/
def memReadAccess (width : Nat) (address : MemAddr) (s : State) : State :=
  if memTakes s width address then retire (memData s.mem width address) s else retire .busError s

/-- A write access on the memory port (R29 to R32). -/
def memWriteAccess (width : Nat) (address : MemAddr) (v : Word) (s : State) : State :=
  if memTakes s width address then
    retire .written { s with mem := memStore s.mem width address v }
  else retire .busError s

/-! ### `poll`, reset and waiting -/

/-- One read of the loop `poll` (R47): STATUS is read, and the loop ends when bit 0 is 0.
(DEDUCED, safe: assumption log 13.) -/
def pollRead (s : State) : State :=
  if s.busy then respond (.data32 s.statusWord) s else retire (.data32 s.statusWord) s

/-- The reset event (R86 to R88): registers and STATUS 0, the pending command abandoned, the
latch and every byte of MEM unspecified anew, MEM_SIZE as it is (R21). The model's own fields:
DESIGN CHOICE, assumption log 7. -/
def resetEvent (s : State) : State where
  canvasW := 0#16
  canvasH := 0#16
  rectX := 0#16
  rectY := 0#16
  rectW := 0#16
  rectH := 0#16
  memSize := s.memSize
  busy := false
  done := false
  ovr := false
  err := .none
  latch := Latch.ofBits (Config.unspecifiedLatch (s.mem.generation + 1))
  mem := s.mem.afterReset
  delay := 0
  accepted := s.accepted
  inputs := inputsAfter s.inputs
  responses := s.responses

/-- No agent has anything to present: the step only lets a pending completion come nearer.
(DESIGN CHOICE, safe: assumption log 6.) -/
def wait (s : State) : State :=
  { s with delay := s.delay - 1 }

/-- The step of HOST, or of the reset line, that performs one input. -/
def perform (input : Input) (s : State) : State :=
  match input with
  | .regRead width offset => regReadAccess width offset s
  | .regWrite width offset v => regWriteAccess width offset v s
  | .memRead width address => memReadAccess width address s
  | .memWrite width address v => memWriteAccess width address v s
  | .poll => pollRead s
  | .run w => regWriteAccess 32 0x000#12 w s
  | .reset => resetEvent s

end Sys2Proof.Machine
end

