-- ==== Sys2Proof/Machine/Commands.lean ====
section
/-!
DEFINITION. The meaning of the three commands (`spec/40_commands.md` R56 to R58). A command lives
through two steps, its issue by HOST (R50) and its completion by the ENGINE (R55); `commandStep`
says which of the two the state is at, and a command's own memory effect is performed at its
completion.
-/

namespace Sys2Proof.Machine

/-- The memory effect of RASTERIZE (R56): the canvas is zeroed, then the rectangle is drawn. -/
def rasterizeEffect (l : Latch) (m : Memory) : Memory :=
  drawRectangle l (zeroCanvas l m)

/-- The memory effect of CLEAR (R57). -/
def clearEffect (l : Latch) (m : Memory) : Memory :=
  zeroCanvas l m

/-- The memory effect of DRAW_RECT (R58). -/
def drawRectEffect (l : Latch) (m : Memory) : Memory :=
  drawRectangle l m

/-- RASTERIZE (R56). -/
def execRasterize (s : State) : Host.Outcome State Fault Refusal :=
  .next (commandStep (opcodeOf .rasterize) rasterizeEffect s)

/-- CLEAR (R57). -/
def execClear (s : State) : Host.Outcome State Fault Refusal :=
  .next (commandStep (opcodeOf .clear) clearEffect s)

/-- DRAW_RECT (R58). -/
def execDrawRect (s : State) : Host.Outcome State Fault Refusal :=
  .next (commandStep (opcodeOf .drawRect) drawRectEffect s)

end Sys2Proof.Machine
end

