-- ==== Sys2Proof/Machine/Dispatch.lean ====
section
/-!
DEFINITION. One arm per command.
-/

namespace Sys2Proof.Machine

/-- What a step of a command does: its CMD write by HOST or its completion by the ENGINE. -/
def exec (i : Instr) (s : State) : Host.Outcome State Fault Refusal :=
  match i with
  | .rasterize => Sys2Proof.Machine.execRasterize s
  | .clear => Sys2Proof.Machine.execClear s
  | .drawRect => Sys2Proof.Machine.execDrawRect s

end Sys2Proof.Machine
end

