-- ==== Sys2Proof/Machine/Fetch.lean ====
section
/-!
DEFINITION. What the next step of the total order (`spec/20_memory.md` R39) is: a step of a
command, another step of HOST or of the reset line, or nothing that the spec gives.
-/

namespace Sys2Proof.Machine

/-- The next step of the total order. -/
inductive NextStep where
  /-- A step of the command `i`: its issue or its completion. -/
  | command (i : Instr)
  /-- A step that is no command's, with the state after it. -/
  | other (s : State)
  /-- The spec gives the state no step. -/
  | stop (f : Fault)
  deriving DecidableEq, Repr

/-- The word an input writes to CMD, if it does (R11, R48). -/
def Input.cmdWord : Input → Option Word
  | .regWrite width offset v => if width = 32 ∧ offset = 0x000#12 then some v else none
  | .run w => some w
  | .regRead _ _ => none
  | .memRead _ _ => none
  | .memWrite _ _ _ => none
  | .poll => none
  | .reset => none

/-- The completion step of the pending command (R55). -/
def engineStep (s : State) : NextStep :=
  match decodeOp s.latch.op with
  | .ok i => .command i
  | .error (.illegalOp op) => .stop (.pendingOpIllegal op)

/-- The step of HOST or the reset line that performs the given input. A CMD write of a legal word
is a step of its command; a CMD write of an illegal word completes with ILLEGAL_COMMAND (R46). -/
def inputStep (input : Input) (s : State) : NextStep :=
  match input.cmdWord with
  | some w =>
    match decode w with
    | .ok i => .command i
    | .error _ => .other (perform input s)
  | none => .other (perform input s)

/-- The next step of the total order: the ENGINE's when its turn has come, else the next input;
without one the block waits. -/
def fetch (s : State) : NextStep :=
  if s.engineTurn then engineStep s
  else
    match s.inputs with
    | [] => .other (wait s)
    | input :: _ => inputStep input s

end Sys2Proof.Machine
end

