-- ==== Sys2Proof/Machine/Step.lean ====
section
/-!
DEFINITION. One step of the total order of `spec/20_memory.md` R39, and the host placing a
command word where the next step takes it.
-/

namespace Sys2Proof.Machine

/-- One step of the block: a register-port access, a memory-port access, a completion step, a
reset (R39), or waiting. -/
def step (s : State) : Host.Outcome State Fault Refusal :=
  match fetch s with
  | .command i => exec i s
  | .other t => .next t
  | .stop f => .fault f

/-- The state in which the very next step is the issue of the command word `w`: the host's next
line is `wr CMD, w`, and no command is pending, since a CMD write while BUSY = 1 issues nothing
(R51) and the ENGINE's turn would come first. (DESIGN CHOICE, safe: assumption
log 1.) -/
def State.withFetchWord (s : State) (nbits w : Nat) : State :=
  { s with
    busy := false
    inputs := .regWrite 32 0x000#12 (BitVec.ofNat 32 (w % 2 ^ nbits)) :: s.inputs }

end Sys2Proof.Machine
end

