-- ==== Sys2Proof/Safety.lean ====
section
/-!
DEFINITION. What a legal state of the block is, in the terms the statements use, and when a host
program has ended.
-/

namespace Sys2Proof.Machine

/-- The memory effect of each command, as a function of the command (R55). -/
def commandEffect : Instr → Latch → Memory → Memory
  | .rasterize => rasterizeEffect
  | .clear => clearEffect
  | .drawRect => drawRectEffect

/-- Every listed byte lies in MEM (R24). -/
abbrev Memory.inside (m : Memory) (memBytes : Nat) : Prop :=
  ∀ c ∈ m.cells, c.1 < memBytes

/-- What acceptance left while a command is pending: the latched command passed validation (R54)
and DONE and ERR are still 0. -/
abbrev State.pendingSound (s : State) : Prop :=
  s.busy = true → validate s.latch s.memBytes = .none ∧ s.done = false ∧ s.err = .none

/-- The invariant of the block: the memory size is within the bounds of R1, the memory list has
its canonical form and lies in MEM, and a pending command is one that was accepted. -/
abbrev Inv (s : State) : Prop :=
  memSizeWellFormed s.memBytes = true ∧ s.mem.wf ∧ s.mem.inside s.memBytes ∧ s.pendingSound

/-- R94: a host program has ended when its last transaction has been performed and BUSY = 0. A
reset line still to come is an external event (R86) and no transaction (R49), so it does not keep
the program from having ended (assumption log 15). -/
abbrev State.ended (s : State) : Prop :=
  (∀ input ∈ s.inputs, input = .reset) ∧ s.busy = false

/-- R34: the bit of pixel `p` of row `r` in a bitmap of the given pitch. -/
def Memory.pixel (m : Memory) (pitch r p : Nat) : Bool :=
  (m.read (r * pitch + p / 8)).getLsbD (p % 8)

/-- Pixel `p` of row `r` lies in the latched rectangle after the left clamp (R56, R61). -/
def Latch.covers (l : Latch) (r p : Nat) : Bool :=
  decide (l.y.toNat ≤ r ∧ r < l.bottom ∧ max l.leftX 0 ≤ (p : Int) ∧ (p : Int) < l.rightX)

/-- The bitmap of the canvas in the operand registers fits MEM (R73 does not hold). -/
abbrev State.canvasFits (s : State) : Prop :=
  (s.canvasW.toNat + 7) / 8 * s.canvasH.toNat ≤ s.memSize.toNat

/-- The rectangle in the operand registers is one that R74 does not refuse. -/
abbrev State.rectangleFits (s : State) : Prop :=
  s.rectH.toNat ≠ 0 ∧ s.rectY.toNat + s.rectH.toNat ≤ s.canvasH.toNat ∧
    s.rectX.toInt + (s.rectW.toNat : Int) ≤ (s.canvasW.toNat : Int)

/-- The state after a port answered `r` to the host's next line and the host has `rest` left: no
state of the block has changed. -/
def State.answered (s : State) (rest : List Input) (r : Response) : State :=
  { s with inputs := rest, responses := r :: s.responses, delay := s.delay - 1 }

/-- The state after the issue step's own writes (R50), before its error or its acceptance. -/
def State.issued (s : State) (op : OpCode) : State :=
  { s with
    latch := ⟨op, s.canvasW, s.canvasH, s.rectX, s.rectY, s.rectW, s.rectH⟩
    done := false
    err := .none
    inputs := inputsAfter s.inputs
    responses := .written :: s.responses
    delay := s.delay - 1 }

/-- The host's next line writes the word `w` to CMD, alone or as the first half of `run`. -/
abbrev State.nextWritesCmd (s : State) (w : Word) (rest : List Input) : Prop :=
  s.inputs = .regWrite 32 0x000#12 w :: rest ∨ s.inputs = .run w :: rest

end Sys2Proof.Machine
end

