-- ==== Sys2Proof/Certificates/Slice0/Obligations.lean ====
section
/-!
DEFINITION. The statements for the provers. In all of them a step is one of the total order of
R39; `engineTurn = false` says that it is HOST's (or the reset line's) step.
-/

open Sys2Proof Sys2Proof.Machine

/-! ### Encoding -/

/-- R45: OP is the low four bits of the word, 1, 2 and 3 are the commands, every other OP is
refused by name, and no other bit is read. -/
def Obligations.DecodeReadsOpFieldOnly : Prop :=
  ∀ w : Word,
    (decode w = .ok .rasterize ↔ w.toNat % 16 = 1) ∧
    (decode w = .ok .clear ↔ w.toNat % 16 = 2) ∧
    (decode w = .ok .drawRect ↔ w.toNat % 16 = 3) ∧
    (w.toNat % 16 = 0 ∨ 4 ≤ w.toNat % 16 →
      decode w = .error (.illegalOp (BitVec.ofNat 4 (w.toNat % 16))))

/-- Decode and encode agree both ways, for every value of the 28 ignored bits (R43). -/
def Obligations.DecodeEncodeAgree : Prop :=
  (∀ (i : Instr) (hi : BitVec 28), i.wellFormed = true → decode (encodeWith hi i) = .ok i) ∧
  (∀ (w : Word) (i : Instr), decode w = .ok i → ∃ hi : BitVec 28, encodeWith hi i = w)

/-- The words of the opcode map (R45), written out, decode to their commands. -/
def Obligations.TableWordsDecode : Prop :=
  decode 0x00000001#32 = .ok .rasterize ∧ decode 0x00000002#32 = .ok .clear ∧
  decode 0x00000003#32 = .ok .drawRect ∧ decode 0xFFFFFFF1#32 = .ok .rasterize ∧
  decode 0x00000000#32 = .error (.illegalOp 0#4) ∧
  decode 0x0000000F#32 = .error (.illegalOp 15#4)

/-! ### The step -/

/-- A CMD write of a legal word in HOST's turn is a step of that command, and so is the ENGINE's
turn with that command pending. That one exec stands for both steps is the model's choice:
assumption log 8. -/
def Obligations.StepRunsDecodedCommand : Prop :=
  (∀ (s : State) (w : Word) (rest : List Input) (i : Instr), s.engineTurn = false →
    s.nextWritesCmd w rest → decode w = .ok i → step s = exec i s) ∧
  (∀ (s : State) (i : Instr), s.engineTurn = true → s.latch.op = opcodeOf i →
    step s = exec i s)

/-- R46: a CMD write of an illegal word with BUSY = 0 completes at once with ILLEGAL_COMMAND. -/
def Obligations.IllegalWordCompletesWithError : Prop :=
  ∀ (s : State) (w : Word) (rest : List Input), s.busy = false → s.nextWritesCmd w rest →
    (w.toNat % 16 = 0 ∨ 4 ≤ w.toNat % 16) →
    step s = .next { s.issued (BitVec.ofNat 4 (w.toNat % 16)) with
      err := .illegalCommand, done := true }

/-- R51: a CMD write while BUSY = 1, of any word, only sets OVR. -/
def Obligations.CmdWriteWhileBusyOnlySetsOvr : Prop :=
  ∀ (s : State) (w : Word) (rest : List Input), s.busy = true → s.delay ≠ 0 →
    s.nextWritesCmd w rest →
    step s = .next { s.answered (inputsAfter s.inputs) .written with ovr := true }

/-- Without a line from the host the block waits: its state is kept, and only a pending completion
comes nearer. The model's choice: assumption log 6. -/
def Obligations.WaitingChangesNothing : Prop :=
  ∀ s : State, s.engineTurn = false → s.inputs = [] →
    step s = .next { s with delay := s.delay - 1 }

/-- R47: each read of `poll` returns STATUS; the loop goes on while BUSY is 1 and ends, with the
last value read, when it is 0. That each read is a step of its own, with the `poll` still the
host's next line, is the model's: assumption log 13. -/
def Obligations.PollReadsUntilBusyIsZero : Prop :=
  ∀ (s : State) (rest : List Input), s.engineTurn = false → s.inputs = .poll :: rest →
    (s.busy = true → step s = .next (s.answered s.inputs (.data32 (regRead s 0x004#12)))) ∧
    (s.busy = false → step s = .next (s.answered rest (.data32 (regRead s 0x004#12))))

/-- A word placed for the fetch is the command that the very next step runs, from any state. How
a program is placed is the model's choice: assumption log 1. -/
def Obligations.PlacedWordRunsNext : Prop :=
  ∀ (s : State) (w : Nat) (i : Instr), decodeTableWord 32 w = some i →
    step (s.withFetchWord 32 w) = exec i (s.withFetchWord 32 w)

/-! ### Commands: issue -/

/-- R50, R54: a RASTERIZE, CLEAR or DRAW_RECT that passes validation becomes pending, with its
operands latched, DONE and ERR 0 and every other register, OVR and MEM as they were. R93 leaves the
delay of its completion open; that it is drawn here, `Config.completionDelay` of the number of
commands accepted before, which then grows by one, is the model's: assumption log 5. -/
def Obligations.ValidCommandBecomesPending : Prop :=
  ∀ s : State, s.busy = false → s.canvasFits →
    (s.rectangleFits → exec .rasterize s = .next { s.issued 1#4 with
      busy := true, delay := Config.completionDelay s.accepted, accepted := s.accepted + 1 }) ∧
    exec .clear s = .next { s.issued 2#4 with
      busy := true, delay := Config.completionDelay s.accepted, accepted := s.accepted + 1 } ∧
    (s.rectangleFits → exec .drawRect s = .next { s.issued 3#4 with
      busy := true, delay := Config.completionDelay s.accepted, accepted := s.accepted + 1 })

/-- R73: every command fails with INVALID_INPUT_SIZE on a canvas larger than MEM. -/
def Obligations.OversizeCanvasIsRejected : Prop :=
  ∀ s : State, s.busy = false → ¬ s.canvasFits →
    exec .rasterize s = .next { s.issued 1#4 with err := .invalidInputSize, done := true } ∧
    exec .clear s = .next { s.issued 2#4 with err := .invalidInputSize, done := true } ∧
    exec .drawRect s = .next { s.issued 3#4 with err := .invalidInputSize, done := true }

/-- R74: RASTERIZE and DRAW_RECT fail with INVALID_RECTANGLE on a rectangle of no rows or past
the canvas, where the canvas fits; CLEAR never does. -/
def Obligations.BadRectangleIsRejected : Prop :=
  ∀ s : State, s.busy = false → s.canvasFits → ¬ s.rectangleFits →
    exec .rasterize s = .next { s.issued 1#4 with err := .invalidRectangle, done := true } ∧
    exec .drawRect s = .next { s.issued 3#4 with err := .invalidRectangle, done := true } ∧
    ∃ t, exec .clear s = .next t ∧ t.err = .none

/-- R52: the result of validation, each code exactly where its cause is the first that holds. -/
def Obligations.ValidateReportsFirstCause : Prop :=
  ∀ (l : Latch) (memBytes : Nat),
    (validate l memBytes = .illegalCommand ↔ l.op.toNat = 0 ∨ 4 ≤ l.op.toNat) ∧
    (validate l memBytes = .invalidInputSize ↔
      (1 ≤ l.op.toNat ∧ l.op.toNat ≤ 3) ∧ memBytes < (l.cw.toNat + 7) / 8 * l.ch.toNat) ∧
    (validate l memBytes = .invalidRectangle ↔
      (l.op.toNat = 1 ∨ l.op.toNat = 3) ∧ (l.cw.toNat + 7) / 8 * l.ch.toNat ≤ memBytes ∧
      (l.h.toNat = 0 ∨ l.ch.toNat < l.y.toNat + l.h.toNat ∨
        (l.cw.toNat : Int) < l.x.toInt + (l.w.toNat : Int)))

/-! ### Commands: completion -/

/-- RASTERIZE's completion: exactly the pixels of the rectangle are 1, padding bits included in
the zeroing; bytes outside the canvas and all other state are kept. -/
def Obligations.RasterizeCompletionDrawsRectangle : Prop :=
  ∀ s : State, s.busy = true → s.delay = 0 → s.latch.op = 1#4 →
    validate s.latch s.memBytes = .none →
    ∃ m : Memory,
      exec .rasterize s = .next { s with mem := m, busy := false, done := true, err := .none } ∧
      (∀ r p, r < s.latch.ch.toNat → p < 8 * s.latch.pitch →
        m.pixel s.latch.pitch r p = s.latch.covers r p) ∧
      (∀ a, s.latch.canvasBytes ≤ a → m.read a = s.mem.read a)

/-- CLEAR's completion: every byte of the canvas is 0, everything else is kept (R57). -/
def Obligations.ClearCompletionZeroesCanvas : Prop :=
  ∀ s : State, s.busy = true → s.delay = 0 → s.latch.op = 2#4 →
    ∃ m : Memory,
      exec .clear s = .next { s with mem := m, busy := false, done := true, err := .none } ∧
      (∀ a, a < (s.latch.cw.toNat + 7) / 8 * s.latch.ch.toNat → m.read a = 0x00#8) ∧
      (∀ a, (s.latch.cw.toNat + 7) / 8 * s.latch.ch.toNat ≤ a → m.read a = s.mem.read a)

/-- DRAW_RECT's completion: the rectangle's pixels become 1, every other bit of MEM is kept. -/
def Obligations.DrawRectCompletionOrsRectangle : Prop :=
  ∀ s : State, s.busy = true → s.delay = 0 → s.latch.op = 3#4 →
    validate s.latch s.memBytes = .none →
    ∃ m : Memory,
      exec .drawRect s = .next { s with mem := m, busy := false, done := true, err := .none } ∧
      (∀ r p, r < s.latch.ch.toNat → p < 8 * s.latch.pitch →
        m.pixel s.latch.pitch r p =
          (s.mem.pixel s.latch.pitch r p || s.latch.covers r p)) ∧
      (∀ a, s.latch.canvasBytes ≤ a → m.read a = s.mem.read a)

/-- R59: RASTERIZE is CLEAR followed by DRAW_RECT, both of which pass validation where RASTERIZE
does; CLEAR may pass where RASTERIZE fails. -/
def Obligations.RasterizeIsClearThenDrawRect : Prop :=
  (∀ (l : Latch) (memBytes : Nat), validate { l with op := 1#4 } memBytes = .none →
    validate { l with op := 2#4 } memBytes = .none ∧
    validate { l with op := 3#4 } memBytes = .none ∧
    ∀ (m : Memory) (a : Nat),
      (rasterizeEffect { l with op := 1#4 } m).read a =
        (drawRectEffect { l with op := 3#4 } (clearEffect { l with op := 2#4 } m)).read a) ∧
  (∃ (l : Latch) (memBytes : Nat), validate { l with op := 1#4 } memBytes ≠ .none ∧
    validate { l with op := 2#4 } memBytes = .none)

/-- R69: two completions of RASTERIZE leave the same canvas whatever MEM held; a second
completion of DRAW_RECT changes nothing. -/
def Obligations.CompletionsAreIdempotent : Prop :=
  (∀ (l : Latch) (m n : Memory) (a : Nat), a < l.canvasBytes →
    (rasterizeEffect l m).read a = (rasterizeEffect l n).read a) ∧
  (∀ (l : Latch) (m : Memory) (a : Nat),
    (drawRectEffect l (drawRectEffect l m)).read a = (drawRectEffect l m).read a)

/-! ### The span -/

/-- R66: a span sets exactly its pixels and changes no other bit. -/
def Obligations.SpanSetsExactlyItsPixels : Prop :=
  ∀ (base : Nat) (leftX rightX : Int) (m : Memory) (a k : Nat), k < 8 →
    ((drawMaskedSpan base leftX rightX m).read a).getLsbD k =
      ((m.read a).getLsbD k ||
        decide (base ≤ a ∧ max leftX 0 ≤ ((8 * (a - base) + k : Nat) : Int) ∧
          ((8 * (a - base) + k : Nat) : Int) < rightX))

/-- R67: the two conditions of the single-byte case are equivalent, either alone selects it, and
otherwise the span ends in a later byte; a span that ends at a byte boundary is multi-byte and
does not touch byte `rightByte`. -/
def Obligations.SingleByteConditionsAgree : Prop :=
  ∀ left right : Nat, left < right →
    right = 8 * byteIndex left + bitOffset left + (right - left) ∧
    (byteIndex left = byteIndex right ↔ bitOffset left + (right - left) < 8) ∧
    (¬ bitOffset left + (right - left) < 8 → byteIndex left + 1 ≤ byteIndex right) ∧
    (bitOffset right = 0 → 8 ≤ bitOffset left + (right - left) ∧
      ∀ (base : Nat) (m : Memory),
        (drawMaskedSpan base left right m).read (base + byteIndex right) =
          m.read (base + byteIndex right))

/-- R68: a span that ends inside the canvas writes only bytes of its own row and no padding
bit. -/
def Obligations.SpanStaysInItsRow : Prop :=
  ∀ (base : Nat) (leftX rightX : Int) (cw : Half) (m : Memory), rightX ≤ (cw.toNat : Int) →
    (∀ a, a < base ∨ base + pitchOf cw ≤ a →
      (drawMaskedSpan base leftX rightX m).read a = m.read a) ∧
    (∀ b k, k < 8 → cw.toNat ≤ 8 * b + k →
      ((drawMaskedSpan base leftX rightX m).read (base + b)).getLsbD k =
        (m.read (base + b)).getLsbD k)

/-- R70: the rows of a command may be drawn in any order, and every row of the rectangle receives
the same byte pattern. -/
def Obligations.RowsAreIndependent : Prop :=
  ∀ (l : Latch), l.rightX ≤ (l.cw.toNat : Int) →
    (∀ (rows : List Nat) (m : Memory) (a : Nat), rows.Perm (List.range' l.y.toNat l.h.toNat) →
      (rows.foldl (fun m r => drawMaskedSpan (r * l.pitch) l.leftX l.rightX m) m).read a =
        (drawRectangle l m).read a) ∧
    (∃ pattern : Nat → Byte, ∀ (m : Memory) (r b : Nat), l.y.toNat ≤ r → r < l.bottom →
      b < l.pitch →
      (drawRectangle l m).read (r * l.pitch + b) = m.read (r * l.pitch + b) ||| pattern b)

/-! ### The register port and STATUS -/

/-- A taken register read, with BUSY 0 or 1, answers the register's value and has no side effect
(R27). -/
def Obligations.RegisterReadHasNoSideEffect : Prop :=
  ∀ (s : State) (offset : RegOffset) (rest : List Input), s.engineTurn = false →
    s.inputs = .regRead 32 offset :: rest → offset.toNat % 4 = 0 →
    step s = .next (s.answered rest (.data32 (regRead s offset)))

/-- The value of each register: CMD reads 0, STATUS is composed of its fields, the operand
registers are zero-extended, PITCH is computed from CANVAS_W and MEM_SIZE is its value. -/
def Obligations.RegisterReadValues : Prop :=
  ∀ s : State,
    regRead s 0x000#12 = 0 ∧
    (regRead s 0x004#12).toNat = s.busy.toNat + 2 * s.done.toNat + 4 * s.ovr.toNat +
      16 * s.err.code.toNat ∧
    (regRead s 0x008#12).toNat = s.canvasW.toNat ∧ (regRead s 0x00C#12).toNat = s.canvasH.toNat ∧
    (regRead s 0x010#12).toNat = s.rectX.toNat ∧ (regRead s 0x014#12).toNat = s.rectY.toNat ∧
    (regRead s 0x018#12).toNat = s.rectW.toNat ∧ (regRead s 0x01C#12).toNat = s.rectH.toNat ∧
    (regRead s 0x020#12).toNat = (s.canvasW.toNat + 7) / 8 ∧
    (regRead s 0x024#12).toNat = s.memSize.toNat

/-- R12: the fields of STATUS, its reserved bits and its reset value. -/
def Obligations.StatusFieldsStandInPlace : Prop :=
  (∀ s : State,
    (regRead s 0x004#12).getLsbD 0 = s.busy ∧ (regRead s 0x004#12).getLsbD 1 = s.done ∧
    (regRead s 0x004#12).getLsbD 2 = s.ovr ∧ (regRead s 0x004#12).getLsbD 3 = false ∧
    (regRead s 0x004#12).extractLsb' 4 4 = s.err.code ∧
    (regRead s 0x004#12).extractLsb' 8 24 = 0) ∧
  regRead State.reset 0x004#12 = 0

/-- R71: the codes of ERR, and that no read of STATUS shows another. -/
def Obligations.ErrCodesAreZeroToThree : Prop :=
  ErrorCode.none.code.toNat = 0 ∧ ErrorCode.invalidInputSize.code.toNat = 1 ∧
  ErrorCode.invalidRectangle.code.toNat = 2 ∧ ErrorCode.illegalCommand.code.toNat = 3 ∧
  ∀ s : State, (regRead s 0x004#12).toNat / 16 ≤ 3

/-- R20: PITCH is the least number of bytes that holds the current CANVAS_W, a write to it is taken
by the port and changes no state of the block, and it reads 0 after reset. -/
def Obligations.PitchIsLeastCover : Prop :=
  (∀ s : State,
    s.canvasW.toNat ≤ (regRead s 0x020#12).toNat * 8 ∧
    (∀ q, s.canvasW.toNat ≤ q * 8 → (regRead s 0x020#12).toNat ≤ q) ∧
    (regRead s 0x020#12).toNat ≤ 8192 ∧ (∀ v, regWrite s 0x020#12 v = s)) ∧
  (∀ (s : State) (v : Word) (rest : List Input), s.engineTurn = false →
    s.inputs = .regWrite 32 0x020#12 v :: rest → step s = .next (s.answered rest .written)) ∧
  regRead State.reset 0x020#12 = 0

/-- R10: a reserved word offset reads 0 and ignores writes, with no BUS_ERROR. -/
def Obligations.ReservedOffsetsAreInert : Prop :=
  ∀ (s : State) (offset : RegOffset) (v : Word) (rest : List Input), s.engineTurn = false →
    0x028 ≤ offset.toNat → offset.toNat % 4 = 0 →
    (s.inputs = .regRead 32 offset :: rest → step s = .next (s.answered rest (.data32 0))) ∧
    (s.inputs = .regWrite 32 offset v :: rest → step s = .next (s.answered rest .written))

/-- R13: a write to STATUS clears DONE and OVR where it writes 1 and does nothing else, whatever
BUSY is. -/
def Obligations.StatusWriteClearsWrittenOnes : Prop :=
  ∀ (s : State) (v : Word) (rest : List Input), s.engineTurn = false →
    s.inputs = .regWrite 32 0x004#12 v :: rest →
    step s = .next { s.answered rest .written with
      done := if v.toNat / 2 % 2 = 1 then false else s.done
      ovr := if v.toNat / 4 % 2 = 1 then false else s.ovr }

/-- A write to an operand register stores the low 16 bits and changes nothing else, whatever BUSY
is (R14 to R19, R28). -/
def Obligations.OperandWriteStoresLowHalf : Prop :=
  ∀ (s : State) (v : Word) (rest : List Input), s.engineTurn = false →
    (s.inputs = .regWrite 32 0x008#12 v :: rest → step s = .next { s.answered rest .written with
      canvasW := BitVec.ofNat 16 v.toNat }) ∧
    (s.inputs = .regWrite 32 0x00C#12 v :: rest → step s = .next { s.answered rest .written with
      canvasH := BitVec.ofNat 16 v.toNat }) ∧
    (s.inputs = .regWrite 32 0x010#12 v :: rest → step s = .next { s.answered rest .written with
      rectX := BitVec.ofNat 16 v.toNat }) ∧
    (s.inputs = .regWrite 32 0x014#12 v :: rest → step s = .next { s.answered rest .written with
      rectY := BitVec.ofNat 16 v.toNat }) ∧
    (s.inputs = .regWrite 32 0x018#12 v :: rest → step s = .next { s.answered rest .written with
      rectW := BitVec.ofNat 16 v.toNat }) ∧
    (s.inputs = .regWrite 32 0x01C#12 v :: rest → step s = .next { s.answered rest .written with
      rectH := BitVec.ofNat 16 v.toNat })

/-- R21: MEM_SIZE keeps its value in every step; a write to it is taken by the port and changes no
state of the block; after reset it is the instance's `MASK_MEM_BYTES`. -/
def Obligations.MemSizeNeverChanges : Prop :=
  (∀ s t : State, step s = .next t → regRead t 0x024#12 = regRead s 0x024#12) ∧
  (∀ (s : State) (v : Word), regWrite s 0x024#12 v = s) ∧
  (∀ (s : State) (v : Word) (rest : List Input), s.engineTurn = false →
    s.inputs = .regWrite 32 0x024#12 v :: rest → step s = .next (s.answered rest .written)) ∧
  (regRead State.reset 0x024#12).toNat = Config.maskMemBytes

/-! ### The memory port and BUS_ERROR -/

/-- R29: 8-bit accesses inside MEM with BUSY = 0. That a write whose data is 256 or more stores
the low 8 bits is the model's: assumption log 9. -/
def Obligations.MemoryByteAccess : Prop :=
  ∀ (s : State) (a : MemAddr) (v : Word) (rest : List Input), s.busy = false →
    a.toNat < s.memSize.toNat →
    (s.inputs = .memRead 8 a :: rest →
      step s = .next (s.answered rest (.data8 (s.mem.read a.toNat)))) ∧
    (s.inputs = .memWrite 8 a v :: rest →
      ∃ m : Memory, step s = .next { s.answered rest .written with mem := m } ∧
        m.read a.toNat = BitVec.ofNat 8 v.toNat ∧
        ∀ b, b ≠ a.toNat → m.read b = s.mem.read b)

/-- R30: aligned 32-bit accesses inside MEM with BUSY = 0, little-endian. -/
def Obligations.MemoryWordAccessIsLittleEndian : Prop :=
  ∀ (s : State) (a : MemAddr) (v : Word) (rest : List Input), s.busy = false →
    a.toNat % 4 = 0 → a.toNat + 3 < s.memSize.toNat →
    (s.inputs = .memRead 32 a :: rest →
      ∃ w : Word, step s = .next (s.answered rest (.data32 w)) ∧
        w.toNat = (s.mem.read a.toNat).toNat + 2 ^ 8 * (s.mem.read (a.toNat + 1)).toNat +
          2 ^ 16 * (s.mem.read (a.toNat + 2)).toNat +
          2 ^ 24 * (s.mem.read (a.toNat + 3)).toNat) ∧
    (s.inputs = .memWrite 32 a v :: rest →
      ∃ m : Memory, step s = .next { s.answered rest .written with mem := m } ∧
        (∀ k, k < 4 → (m.read (a.toNat + k)).toNat = v.toNat / 2 ^ (8 * k) % 256) ∧
        ∀ b, b < a.toNat ∨ a.toNat + 4 ≤ b → m.read b = s.mem.read b)

/-- R31: a memory-port access of another width, out of range or misaligned gets BUS_ERROR and
changes nothing. -/
def Obligations.BadMemoryAccessGetsBusError : Prop :=
  ∀ (s : State) (width : Nat) (a : MemAddr) (v : Word) (rest : List Input),
    s.engineTurn = false →
    (width ≠ 8 ∧ width ≠ 32 ∨ width = 8 ∧ s.memSize.toNat ≤ a.toNat ∨
      width = 32 ∧ (a.toNat % 4 ≠ 0 ∨ s.memSize.toNat ≤ a.toNat + 3)) →
    (s.inputs = .memRead width a :: rest ∨ s.inputs = .memWrite width a v :: rest) →
    step s = .next (s.answered rest .busError)

/-- R32: while BUSY = 1 every memory-port access gets BUS_ERROR and changes nothing. -/
def Obligations.MemoryPortIsClosedWhileBusy : Prop :=
  ∀ (s : State) (width : Nat) (a : MemAddr) (v : Word) (rest : List Input),
    s.busy = true → s.delay ≠ 0 →
    (s.inputs = .memRead width a :: rest ∨ s.inputs = .memWrite width a v :: rest) →
    step s = .next (s.answered rest .busError)

/-- A register access of another width or at a misaligned offset gets BUS_ERROR and changes
nothing (R27, R28). -/
def Obligations.BadRegisterAccessGetsBusError : Prop :=
  ∀ (s : State) (width : Nat) (offset : RegOffset) (v : Word) (rest : List Input),
    s.engineTurn = false → (width ≠ 32 ∨ offset.toNat % 4 ≠ 0) →
    (s.inputs = .regRead width offset :: rest ∨ s.inputs = .regWrite width offset v :: rest) →
    step s = .next (s.answered rest .busError)

/-! ### Reset -/

/-- R86: what the reset event sets, and that it happens in a step of its own. That it stands in
the same list as the host's lines is the model's: assumption log 15. What MEM holds after it is
`ResetLeavesMemoryUnspecified`. -/
def Obligations.ResetClearsRegisters : Prop :=
  ∀ (s : State) (rest : List Input), s.engineTurn = false → s.inputs = .reset :: rest →
    ∃ t : State, step s = .next t ∧ t.inputs = rest ∧
      t.canvasW = 0 ∧ t.canvasH = 0 ∧ t.rectX = 0 ∧ t.rectY = 0 ∧ t.rectW = 0 ∧ t.rectH = 0 ∧
      t.busy = false ∧ t.done = false ∧ t.ovr = false ∧ t.err = .none ∧
      regRead t 0x020#12 = 0 ∧ regRead t 0x024#12 = s.memSize

/-- After a reset step every byte of MEM is a free value, drawn anew at each reset, with BUSY 0 or 1
before it (R87, R88), and so it is after the first reset. That the draw is the constant
`Config.unspecifiedByte` of the number of resets is the model's: assumption log 3; the reset line
among the inputs: assumption log 15. -/
def Obligations.ResetLeavesMemoryUnspecified : Prop :=
  (∀ (s : State) (rest : List Input), s.engineTurn = false → s.inputs = .reset :: rest →
    ∃ t : State, step s = .next t ∧ t.mem.generation = s.mem.generation + 1 ∧
      ∀ a, t.mem.read a = Config.unspecifiedByte (s.mem.generation + 1) a) ∧
  (∀ a, State.reset.mem.read a = Config.unspecifiedByte 0 a)

/-- What every word offset but that of MEM_SIZE reads right after reset: the reset column of R9,
STATUS (R12) and PITCH (R20), and 0 at the reserved word offsets (R10). A misaligned offset reads
nothing (`BadRegisterAccessGetsBusError`). -/
def Obligations.RegistersReadZeroAfterReset : Prop :=
  ∀ offset : RegOffset, offset.toNat % 4 = 0 → offset ≠ 0x024#12 →
    regRead State.reset offset = 0

/-! ### Whole-machine rules -/

/-- The invariant holds after reset. -/
def Obligations.ResetSatisfiesInvariant : Prop :=
  Inv State.reset

/-- Every step keeps the invariant. -/
def Obligations.StepKeepsInvariant : Prop :=
  ∀ s t : State, Inv s → step s = .next t → Inv t

/-- From a state with the invariant a step never stops: a validated command cannot fail at its
completion (R55), an error completion is a step (R76). That BUS_ERROR is an answer after which the
run goes on is assumption log 10, and that a state in which the host presents nothing has a waiting
step is assumption log 6. -/
def Obligations.StepNeverStops : Prop :=
  ∀ s : State, Inv s → ∃ t, step s = .next t

/-- R24: MEM changes only in a completion step, in a memory-port write with BUSY = 0, or in a
reset. -/
def Obligations.MemoryHasThreeWriters : Prop :=
  ∀ s t : State, step s = .next t → t.mem ≠ s.mem →
    s.engineTurn = true ∨
    (s.busy = false ∧ ∃ width a v rest, s.inputs = .memWrite width a v :: rest) ∨
    ∃ rest, s.inputs = .reset :: rest

/-- OVR is set only by a CMD write while BUSY = 1 and is cleared only by a STATUS write with bit 2
or a reset (R79). -/
def Obligations.OvrIsSticky : Prop :=
  ∀ s t : State, step s = .next t →
    (s.ovr = false → t.ovr = true → s.busy = true ∧ ∃ w rest, s.nextWritesCmd w rest) ∧
    (s.ovr = true → t.ovr = false →
      (∃ v rest, s.inputs = .regWrite 32 0x004#12 v :: rest ∧ v.getLsbD 2 = true) ∨
      ∃ rest, s.inputs = .reset :: rest)

/-- ERR keeps its code until the next issue or a reset; clearing DONE does not clear it (R80). -/
def Obligations.ErrKeepsItsCode : Prop :=
  ∀ s t : State, Inv s → step s = .next t → t.err ≠ s.err →
    (s.busy = false ∧ ∃ w rest, s.nextWritesCmd w rest) ∨ ∃ rest, s.inputs = .reset :: rest

/-- R76, R77: a step that ends a command with an error, be its code a new one or that of the
command before, changes no byte of MEM, leaves BUSY 0 and sets DONE. -/
def Obligations.ErrorsLeaveMemoryAlone : Prop :=
  ∀ s t : State, Inv s → step s = .next t → t.err ≠ .none →
    (t.err ≠ s.err ∨ s.busy = false ∧ ∃ w rest, s.nextWritesCmd w rest) →
    t.mem = s.mem ∧ t.busy = false ∧ t.done = true

/-- The host cannot read the latch while no command is pending (R22): a different latch changes
nothing but the latch, and where the step makes a command pending not even that. -/
def Obligations.IdleLatchIsUnobservable : Prop :=
  ∀ (s : State) (l : Latch), s.busy = false → ∀ t, step s = .next t →
    ∃ l' : Latch, step { s with latch := l } = .next { t with latch := l' } ∧
      (t.busy = true → l' = t.latch)

/-- R92: an operand write while BUSY = 1 takes effect in its register at once, and the completion
step reads no operand register. -/
def Obligations.OperandWritesDoNotDisturbPending : Prop :=
  (∀ (s : State) (offset : RegOffset) (v : Word) (rest : List Input), s.busy = true →
    s.delay ≠ 0 → 0x008 ≤ offset.toNat → offset.toNat ≤ 0x01C → offset.toNat % 4 = 0 →
    s.inputs = .regWrite 32 offset v :: rest →
    ∃ t : State, step s = .next t ∧ (regRead t offset).toNat = v.toNat % 65536 ∧
      regRead t 0x020#12 = BitVec.ofNat 32 (pitchOf t.canvasW) ∧
      t.latch = s.latch ∧ t.busy = true ∧ t.mem = s.mem) ∧
  (∀ (s t : State) (i : Instr) (cw ch x y w h : Half), s.engineTurn = true →
    s.latch.op = opcodeOf i → exec i s = .next t →
    exec i { s with canvasW := cw, canvasH := ch, rectX := x, rectY := y, rectW := w, rectH := h }
      = .next { t with
          canvasW := cw, canvasH := ch, rectX := x, rectY := y, rectW := w, rectH := h })

/-- R91: a second command written with no poll between is issued after the first completed, or
dropped with OVR. R93 leaves open when the first completes; that the delay left, 0 or not, decides
which of the two happens is the model's: assumption log 5. -/
def Obligations.SecondCommandIssuedOrDropped : Prop :=
  ∀ (s : State) (w : Word) (rest : List Input) (i : Instr), Inv s → s.busy = true →
    s.nextWritesCmd w rest → decode w = .ok i →
    (s.delay = 0 → ∃ t, step s = .next t ∧ t.busy = false ∧ t.ovr = s.ovr ∧
      t.inputs = s.inputs ∧ step t = exec i t) ∧
    (s.delay ≠ 0 → ∃ t, step s = .next t ∧ t.busy = true ∧ t.ovr = true ∧
      t.latch = s.latch ∧ t.mem = s.mem)

/-- R93, with the weak fairness the model's finite delay gives (assumption log 5): a pending
command completes after its delay unless a reset comes first, with the effect of its latched
operands on the memory as it stood at its issue, whatever the host does meanwhile. -/
def Obligations.PendingCommandCompletes : Prop :=
  ∀ s : State, Inv s → s.busy = true → .reset ∉ s.inputs.take s.delay →
    ∃ (t : State) (i : Instr), Host.Core.run Sys2Proof.core (s.delay + 1) s = .next t ∧
      s.latch.op = opcodeOf i ∧ t.busy = false ∧ t.err = .none ∧ t.done = true ∧
      t.latch = s.latch ∧
      t.mem = commandEffect i s.latch s.mem

/-- R47, R48: the last value that the `poll` of `run OP` read has DONE = 1 and the command's result
code. That the run ends rests on the finite delay, the model's form of R93's weak fairness
(assumption log 5), and on the steps of `poll` and `run` (assumption log 13). -/
def Obligations.RunReportsResultCode : Prop :=
  ∀ (s : State) (w : Word) (rest : List Input), Inv s → s.busy = false →
    s.inputs = .run w :: rest →
    ∃ (n : Nat) (t : State) (v : Word) (earlier : List Response),
      Host.Core.run Sys2Proof.core n s = .next t ∧ t.inputs = rest ∧ t.busy = false ∧
      t.responses = .data32 v :: earlier ∧ v.getLsbD 0 = false ∧ v.getLsbD 1 = true ∧
      v.extractLsb' 4 4 =
        (validate ⟨opField w, s.canvasW, s.canvasH, s.rectX, s.rectY, s.rectW, s.rectH⟩
          s.memSize.toNat).code

/-- The whole contract of RASTERIZE, from the host's `run RASTERIZE` to the bitmap: after it the
canvas holds exactly the rectangle and every byte outside the canvas is as before. That some number
of steps ends the run rests on the finite delay, the model's form of R93's weak fairness (assumption
log 5), and on the steps of `poll` and `run` (assumption log 13). -/
def Obligations.RunRasterizeDrawsRectangle : Prop :=
  ∀ (s : State) (w : Word) (rest : List Input), Inv s → s.busy = false →
    s.inputs = .run w :: rest → w.toNat % 16 = 1 → s.canvasFits → s.rectangleFits →
    ∃ (n : Nat) (t : State), Host.Core.run Sys2Proof.core n s = .next t ∧ t.inputs = rest ∧
      t.busy = false ∧ t.err = .none ∧
      (∀ r p, r < s.canvasH.toNat → p < 8 * ((s.canvasW.toNat + 7) / 8) →
        (t.mem.pixel ((s.canvasW.toNat + 7) / 8) r p = true ↔
          s.rectY.toNat ≤ r ∧ r < s.rectY.toNat + s.rectH.toNat ∧
          max s.rectX.toInt 0 ≤ (p : Int) ∧ (p : Int) < s.rectX.toInt + (s.rectW.toNat : Int))) ∧
      (∀ a, (s.canvasW.toNat + 7) / 8 * s.canvasH.toNat ≤ a → t.mem.read a = s.mem.read a)

/-- R94: a host program that has ended stays ended and gets no further answer; a step after its end
changes nothing of the block, unless it is the external reset. The waiting step is assumption log 6,
the reset line among the inputs assumption log 15. -/
def Obligations.EndedProgramStaysEnded : Prop :=
  ∀ s : State, s.ended → ∃ t : State, step s = .next t ∧ t.ended ∧ t.responses = s.responses ∧
    (s.inputs = [] → t = { s with delay := s.delay - 1 }) ∧
    (s.inputs ≠ [] → t = resetEvent s)
end

