-- ==== Sys2Proof/Laws/Memory.lean ====
section
/-!
SUPPORT. The laws of MEM: read after write, the canonical form under every memory operation, the
place of the bytes an operation lists, and what a fill and an OR update leave.
-/

namespace Sys2Proof.Machine

/-! ### The list of bytes -/

/-- The byte put at an address is the one listed there, in canonical form or not. -/
theorem listedByte_putByte_self (cs : List Host.Cell) (a : Nat) (v : Byte) :
    listedByte (putByte cs a v) a = some v := by
  induction cs with
  | nil => simp [putByte, listedByte]
  | cons c cs ih =>
    unfold putByte
    split_ifs with h1 h2 <;> simp [listedByte, *]

theorem listedByte_putByte_other (cs : List Host.Cell) (a b : Nat) (v : Byte) (h : a ≠ b) :
    listedByte (putByte cs a v) b = listedByte cs b := by
  induction cs with
  | nil => simp [putByte, listedByte, h]
  | cons c cs ih =>
    unfold putByte
    split_ifs with h1 h2
    · simp [listedByte, h]
    · subst h2; simp [listedByte, h]
    · simp [listedByte, ih]

theorem mem_putByte {cs : List Host.Cell} {a : Nat} {v : Byte} {c : Host.Cell}
    (h : c ∈ putByte cs a v) : c = (a, v) ∨ c ∈ cs := by
  induction cs with
  | nil => simpa [putByte] using h
  | cons d cs ih =>
    unfold putByte at h
    split_ifs at h with h1 h2
    · simpa using h
    · rcases List.mem_cons.1 h with h | h
      · exact .inl h
      · exact .inr (List.mem_cons_of_mem _ h)
    · rcases List.mem_cons.1 h with h | h
      · exact .inr (h ▸ List.mem_cons_self)
      · exact (ih h).imp id (List.mem_cons_of_mem _)

theorem pairwise_putByte (cs : List Host.Cell) (a : Nat) (v : Byte)
    (h : cs.Pairwise (fun c d => c.1 < d.1)) :
    (putByte cs a v).Pairwise (fun c d => c.1 < d.1) := by
  induction cs with
  | nil => simp [putByte]
  | cons d cs ih =>
    have hd := List.pairwise_cons.1 h
    unfold putByte
    split_ifs with h1 h2
    · refine List.pairwise_cons.2 ⟨fun c hc => ?_, h⟩
      rcases List.mem_cons.1 hc with rfl | hc
      · exact h1
      · exact lt_trans h1 (hd.1 c hc)
    · subst h2
      exact List.pairwise_cons.2 ⟨hd.1, hd.2⟩
    · refine List.pairwise_cons.2 ⟨fun c hc => ?_, ih hd.2⟩
      rcases mem_putByte hc with rfl | hc
      · exact lt_of_le_of_ne (not_lt.1 h1) h2
      · exact hd.1 c hc

/-! ### Reading after an operation -/

@[simp] theorem Memory.generation_write (m : Memory) (a : Nat) (v : Byte) :
    (m.write a v).generation = m.generation := rfl

@[simp] theorem Memory.generation_orByte (m : Memory) (a : Nat) (v : Byte) :
    (m.orByte a v).generation = m.generation := rfl

@[simp] theorem Memory.read_write_same (m : Memory) (a : Nat) (v : Byte) :
    (m.write a v).read a = v := by
  simp [Memory.read, Memory.write, listedByte_putByte_self]

theorem Memory.read_write_other (m : Memory) (a b : Nat) (v : Byte) (h : a ≠ b) :
    (m.write a v).read b = m.read b := by
  simp [Memory.read, Memory.write, Memory.unlisted, listedByte_putByte_other _ _ _ _ h]

/-- One byte after a write: R29's `MEM[a] <- v`. -/
theorem Memory.read_write (m : Memory) (a b : Nat) (v : Byte) :
    (m.write a v).read b = if a = b then v else m.read b := by
  split_ifs with h
  · subst h; simp
  · exact m.read_write_other a b v h

/-- One byte after an OR update (R37). -/
theorem Memory.read_orByte (m : Memory) (a b : Nat) (v : Byte) :
    (m.orByte a v).read b = if a = b then m.read b ||| v else m.read b := by
  rw [Memory.orByte, Memory.read_write]
  split_ifs with h
  · rw [h]
  · rfl

@[simp] theorem Memory.generation_fill (m : Memory) (a n : Nat) (v : Byte) :
    (m.fill a n v).generation = m.generation := by
  induction n generalizing m a with
  | zero => rfl
  | succ n ih => simp [Memory.fill, ih]

/-- One byte after a fill of `[a, a + n)`. -/
theorem Memory.read_fill (m : Memory) (a n b : Nat) (v : Byte) :
    (m.fill a n v).read b = if a ≤ b ∧ b < a + n then v else m.read b := by
  induction n generalizing m a with
  | zero => simp [Memory.fill]
  | succ n ih =>
    rw [Memory.fill, ih, Memory.read_write]
    split_ifs <;> first | rfl | omega

/-- A little-endian word read as a number (R30). -/
theorem Memory.readWord_toNat (m : Memory) (a : Nat) :
    (m.readWord a).toNat = (m.read a).toNat + 2 ^ 8 * (m.read (a + 1)).toNat +
      2 ^ 16 * (m.read (a + 2)).toNat + 2 ^ 24 * (m.read (a + 3)).toNat := by
  have h0 := (m.read a).isLt
  have h1 := (m.read (a + 1)).isLt
  have h2 := (m.read (a + 2)).isLt
  have h3 := (m.read (a + 3)).isLt
  have step : ∀ (n k : Nat) (x : BitVec n) (y : BitVec k),
      (x ++ y).toNat = x.toNat * 2 ^ k + y.toNat := by
    intro n k x y
    rw [BitVec.toNat_append, Nat.shiftLeft_eq, Nat.mul_comm, ← Nat.two_pow_add_eq_or_of_lt y.isLt]
  rw [Memory.readWord, step, step, step]
  omega

/-- One byte after a little-endian word write (R30). -/
theorem Memory.read_writeWord (m : Memory) (a b : Nat) (v : Word) :
    (m.writeWord a v).read b =
      if a + 3 = b then v.extractLsb' 24 8
      else if a + 2 = b then v.extractLsb' 16 8
      else if a + 1 = b then v.extractLsb' 8 8
      else if a = b then v.extractLsb' 0 8
      else m.read b := by
  simp only [Memory.writeWord, Memory.read_write]

/-- After a reset every byte is the free value of that reset (R87). -/
@[simp] theorem Memory.read_afterReset (m : Memory) (a : Nat) :
    m.afterReset.read a = Config.unspecifiedByte (m.generation + 1) a := rfl

/-! ### The canonical form and the place of the bytes -/

/-- What every memory operation of the block keeps: the canonical form, and a bound on the
addresses listed. -/
def Memory.sound (m : Memory) (memBytes : Nat) : Prop :=
  m.wf ∧ ∀ c ∈ m.cells, c.1 < memBytes

theorem Memory.wf_write {m : Memory} (h : m.wf) (a : Nat) (v : Byte) : (m.write a v).wf :=
  pairwise_putByte m.cells a v h

theorem Memory.wf_orByte {m : Memory} (h : m.wf) (a : Nat) (v : Byte) : (m.orByte a v).wf :=
  Memory.wf_write h a _

theorem Memory.wf_fill {m : Memory} (h : m.wf) (a n : Nat) (v : Byte) : (m.fill a n v).wf := by
  induction n generalizing m a with
  | zero => exact h
  | succ n ih => exact ih (Memory.wf_write h a v) (a + 1)

theorem Memory.wf_writeWord {m : Memory} (h : m.wf) (a : Nat) (v : Word) :
    (m.writeWord a v).wf :=
  Memory.wf_write (Memory.wf_write (Memory.wf_write (Memory.wf_write h _ _) _ _) _ _) _ _

theorem Memory.wf_afterReset (m : Memory) : m.afterReset.wf :=
  List.Pairwise.nil

theorem State.reset_mem_wf : State.reset.mem.wf :=
  List.Pairwise.nil

theorem Memory.wf_memStore {m : Memory} (h : m.wf) (width : Nat) (a : MemAddr) (v : Word) :
    (memStore m width a v).wf := by
  unfold memStore
  split_ifs
  · exact Memory.wf_write h _ _
  · exact Memory.wf_writeWord h _ _

theorem wf_drawSpanBytes {m : Memory} (h : m.wf) (base left right : Nat) :
    (drawSpanBytes base left right m).wf := by
  unfold drawSpanBytes
  dsimp only
  split_ifs
  · exact Memory.wf_orByte h _ _
  · exact Memory.wf_orByte (Memory.wf_orByte (Memory.wf_fill h _ _ _) _ _) _ _
  · exact Memory.wf_orByte (Memory.wf_fill h _ _ _) _ _

theorem wf_drawMaskedSpan {m : Memory} (h : m.wf) (base : Nat) (leftX rightX : Int) :
    (drawMaskedSpan base leftX rightX m).wf := by
  unfold drawMaskedSpan
  dsimp only
  split_ifs
  · exact h
  · exact wf_drawSpanBytes h _ _ _

theorem wf_drawRows {m : Memory} (h : m.wf) (pitch : Nat) (leftX rightX : Int) (r n : Nat) :
    (drawRows pitch leftX rightX r n m).wf := by
  induction n generalizing m r with
  | zero => exact h
  | succ n ih => exact ih (wf_drawMaskedSpan h _ _ _) (r + 1)

theorem wf_zeroCanvas {m : Memory} (h : m.wf) (l : Latch) : (zeroCanvas l m).wf :=
  Memory.wf_fill h _ _ _

theorem wf_drawRectangle {m : Memory} (h : m.wf) (l : Latch) : (drawRectangle l m).wf :=
  wf_drawRows h _ _ _ _ _

theorem Memory.sound_write {m : Memory} {memBytes : Nat} (h : m.sound memBytes) {a : Nat}
    (v : Byte) (ha : a < memBytes) : (m.write a v).sound memBytes := by
  refine ⟨Memory.wf_write h.1 a v, fun c hc => ?_⟩
  rcases mem_putByte hc with rfl | hc
  · exact ha
  · exact h.2 c hc

theorem Memory.sound_orByte {m : Memory} {memBytes : Nat} (h : m.sound memBytes) {a : Nat}
    (v : Byte) (ha : a < memBytes) : (m.orByte a v).sound memBytes :=
  Memory.sound_write h _ ha

theorem Memory.sound_fill {m : Memory} {memBytes : Nat} (h : m.sound memBytes) {a n : Nat}
    (v : Byte) (ha : n = 0 ∨ a + n ≤ memBytes) : (m.fill a n v).sound memBytes := by
  induction n generalizing m a with
  | zero => exact h
  | succ n ih => exact ih (Memory.sound_write h v (by omega)) (by omega)

end Sys2Proof.Machine
end

