-- ==== Sys2Proof/Laws/Operands.lean ====
section
/-!
SUPPORT. The operand functions as plain arithmetic, and the bits of the span masks.
-/

namespace Sys2Proof.Machine

/-- `sval` is the two's-complement reading (R4). -/
theorem sval_eq_toInt (v : Half) : sval v = v.toInt := by
  have hv := v.isLt
  rw [sval, BitVec.toInt_eq_msb_cond, BitVec.msb_eq_getLsbD_last]
  simp only [Nat.reduceSub]
  split_ifs <;> omega

@[simp] theorem zext32_toNat (v : Half) : (zext32 v).toNat = v.toNat := by
  have hv := v.isLt
  simp only [zext32, BitVec.toNat_setWidth]
  omega

theorem pitchOf_eq (cw : Half) : pitchOf cw = (cw.toNat + 7) / 8 := rfl

theorem Latch.pitch_eq (l : Latch) : l.pitch = (l.cw.toNat + 7) / 8 := rfl

theorem Latch.canvasBytes_eq (l : Latch) :
    l.canvasBytes = (l.cw.toNat + 7) / 8 * l.ch.toNat := rfl

theorem Latch.rightX_eq (l : Latch) : l.rightX = l.x.toInt + (l.w.toNat : Int) := by
  rw [Latch.rightX, sval_eq_toInt]

/-- A pitch covers its row and is at most 8192 bytes (R20, R33). -/
theorem pitchOf_bounds (cw : Half) : cw.toNat ≤ 8 * pitchOf cw ∧ pitchOf cw ≤ 8192 := by
  have := cw.isLt
  rw [pitchOf_eq]
  omega

theorem byteIndex_eq (x : Nat) : byteIndex x = x / 8 := by
  rw [byteIndex, Nat.shiftRight_eq_div_pow]

theorem bitOffset_eq (x : Nat) : bitOffset x = x % 8 := by
  rw [bitOffset]
  exact Nat.and_two_pow_sub_one_eq_mod x 3

/-! ### The masks, bit by bit -/

theorem leftMask_bit : ∀ lo < 8, ∀ k < 8, (leftMask lo).getLsbD k = decide (lo ≤ k) := by
  decide

theorem rightMask_bit : ∀ rr < 8, ∀ k < 8, (rightMask rr).getLsbD k = decide (k < rr) := by
  decide

theorem singleMask_bit : ∀ lo < 8, ∀ w < 8, lo + w < 8 → ∀ k < 8,
    (singleMask lo w).getLsbD k = decide (lo ≤ k ∧ k < lo + w) := by
  decide

/-! ### STATUS, bit by bit -/

theorem statusWord_toNat (s : State) :
    s.statusWord.toNat = s.busy.toNat + 2 * s.done.toNat + 4 * s.ovr.toNat +
      16 * s.err.code.toNat := by
  unfold State.statusWord
  cases s.busy <;> cases s.done <;> cases s.ovr <;> cases s.err <;> decide

end Sys2Proof.Machine
end

