-- ==== Sys2Proof/Laws/State.lean ====
section
/-!
SUPPORT. One lemma for each field of the state under each update of `Machine/Ops.lean` and
`Machine/Flags.lean`, so that no proof unfolds a record update.
-/

namespace Sys2Proof.Machine

/-! ### `respond` -/

@[simp] theorem respond_canvasW (r : Response) (s : State) :
    (respond r s).canvasW = s.canvasW := rfl
@[simp] theorem respond_canvasH (r : Response) (s : State) :
    (respond r s).canvasH = s.canvasH := rfl
@[simp] theorem respond_rectX (r : Response) (s : State) : (respond r s).rectX = s.rectX := rfl
@[simp] theorem respond_rectY (r : Response) (s : State) : (respond r s).rectY = s.rectY := rfl
@[simp] theorem respond_rectW (r : Response) (s : State) : (respond r s).rectW = s.rectW := rfl
@[simp] theorem respond_rectH (r : Response) (s : State) : (respond r s).rectH = s.rectH := rfl
@[simp] theorem respond_memSize (r : Response) (s : State) :
    (respond r s).memSize = s.memSize := rfl
@[simp] theorem respond_busy (r : Response) (s : State) : (respond r s).busy = s.busy := rfl
@[simp] theorem respond_done (r : Response) (s : State) : (respond r s).done = s.done := rfl
@[simp] theorem respond_ovr (r : Response) (s : State) : (respond r s).ovr = s.ovr := rfl
@[simp] theorem respond_err (r : Response) (s : State) : (respond r s).err = s.err := rfl
@[simp] theorem respond_latch (r : Response) (s : State) : (respond r s).latch = s.latch := rfl
@[simp] theorem respond_mem (r : Response) (s : State) : (respond r s).mem = s.mem := rfl
@[simp] theorem respond_delay (r : Response) (s : State) : (respond r s).delay = s.delay - 1 := rfl
@[simp] theorem respond_accepted (r : Response) (s : State) :
    (respond r s).accepted = s.accepted := rfl
@[simp] theorem respond_inputs (r : Response) (s : State) : (respond r s).inputs = s.inputs := rfl
@[simp] theorem respond_responses (r : Response) (s : State) :
    (respond r s).responses = r :: s.responses := rfl

/-! ### `retire` -/

@[simp] theorem retire_canvasW (r : Response) (s : State) : (retire r s).canvasW = s.canvasW := rfl
@[simp] theorem retire_canvasH (r : Response) (s : State) : (retire r s).canvasH = s.canvasH := rfl
@[simp] theorem retire_rectX (r : Response) (s : State) : (retire r s).rectX = s.rectX := rfl
@[simp] theorem retire_rectY (r : Response) (s : State) : (retire r s).rectY = s.rectY := rfl
@[simp] theorem retire_rectW (r : Response) (s : State) : (retire r s).rectW = s.rectW := rfl
@[simp] theorem retire_rectH (r : Response) (s : State) : (retire r s).rectH = s.rectH := rfl
@[simp] theorem retire_memSize (r : Response) (s : State) : (retire r s).memSize = s.memSize := rfl
@[simp] theorem retire_busy (r : Response) (s : State) : (retire r s).busy = s.busy := rfl
@[simp] theorem retire_done (r : Response) (s : State) : (retire r s).done = s.done := rfl
@[simp] theorem retire_ovr (r : Response) (s : State) : (retire r s).ovr = s.ovr := rfl
@[simp] theorem retire_err (r : Response) (s : State) : (retire r s).err = s.err := rfl
@[simp] theorem retire_latch (r : Response) (s : State) : (retire r s).latch = s.latch := rfl
@[simp] theorem retire_mem (r : Response) (s : State) : (retire r s).mem = s.mem := rfl
@[simp] theorem retire_delay (r : Response) (s : State) : (retire r s).delay = s.delay - 1 := rfl
@[simp] theorem retire_accepted (r : Response) (s : State) :
    (retire r s).accepted = s.accepted := rfl
@[simp] theorem retire_inputs (r : Response) (s : State) :
    (retire r s).inputs = inputsAfter s.inputs := rfl
@[simp] theorem retire_responses (r : Response) (s : State) :
    (retire r s).responses = r :: s.responses := rfl

/-! ### `errorComplete` -/

@[simp] theorem errorComplete_canvasW (e : ErrorCode) (s : State) :
    (errorComplete e s).canvasW = s.canvasW := rfl
@[simp] theorem errorComplete_canvasH (e : ErrorCode) (s : State) :
    (errorComplete e s).canvasH = s.canvasH := rfl
@[simp] theorem errorComplete_rectX (e : ErrorCode) (s : State) :
    (errorComplete e s).rectX = s.rectX := rfl
@[simp] theorem errorComplete_rectY (e : ErrorCode) (s : State) :
    (errorComplete e s).rectY = s.rectY := rfl
@[simp] theorem errorComplete_rectW (e : ErrorCode) (s : State) :
    (errorComplete e s).rectW = s.rectW := rfl
@[simp] theorem errorComplete_rectH (e : ErrorCode) (s : State) :
    (errorComplete e s).rectH = s.rectH := rfl
@[simp] theorem errorComplete_memSize (e : ErrorCode) (s : State) :
    (errorComplete e s).memSize = s.memSize := rfl
@[simp] theorem errorComplete_busy (e : ErrorCode) (s : State) :
    (errorComplete e s).busy = s.busy := rfl
@[simp] theorem errorComplete_done (e : ErrorCode) (s : State) :
    (errorComplete e s).done = true := rfl
@[simp] theorem errorComplete_ovr (e : ErrorCode) (s : State) :
    (errorComplete e s).ovr = s.ovr := rfl
@[simp] theorem errorComplete_err (e : ErrorCode) (s : State) : (errorComplete e s).err = e := rfl
@[simp] theorem errorComplete_latch (e : ErrorCode) (s : State) :
    (errorComplete e s).latch = s.latch := rfl
@[simp] theorem errorComplete_mem (e : ErrorCode) (s : State) :
    (errorComplete e s).mem = s.mem := rfl
@[simp] theorem errorComplete_delay (e : ErrorCode) (s : State) :
    (errorComplete e s).delay = s.delay := rfl
@[simp] theorem errorComplete_accepted (e : ErrorCode) (s : State) :
    (errorComplete e s).accepted = s.accepted := rfl
@[simp] theorem errorComplete_inputs (e : ErrorCode) (s : State) :
    (errorComplete e s).inputs = s.inputs := rfl
@[simp] theorem errorComplete_responses (e : ErrorCode) (s : State) :
    (errorComplete e s).responses = s.responses := rfl

/-! ### `accept` -/

@[simp] theorem accept_canvasW (s : State) : (accept s).canvasW = s.canvasW := rfl
@[simp] theorem accept_canvasH (s : State) : (accept s).canvasH = s.canvasH := rfl
@[simp] theorem accept_rectX (s : State) : (accept s).rectX = s.rectX := rfl
@[simp] theorem accept_rectY (s : State) : (accept s).rectY = s.rectY := rfl
@[simp] theorem accept_rectW (s : State) : (accept s).rectW = s.rectW := rfl
@[simp] theorem accept_rectH (s : State) : (accept s).rectH = s.rectH := rfl
@[simp] theorem accept_memSize (s : State) : (accept s).memSize = s.memSize := rfl
@[simp] theorem accept_busy (s : State) : (accept s).busy = true := rfl
@[simp] theorem accept_done (s : State) : (accept s).done = s.done := rfl
@[simp] theorem accept_ovr (s : State) : (accept s).ovr = s.ovr := rfl
@[simp] theorem accept_err (s : State) : (accept s).err = s.err := rfl
@[simp] theorem accept_latch (s : State) : (accept s).latch = s.latch := rfl
@[simp] theorem accept_mem (s : State) : (accept s).mem = s.mem := rfl
@[simp] theorem accept_delay (s : State) :
    (accept s).delay = Config.completionDelay s.accepted := rfl
@[simp] theorem accept_accepted (s : State) : (accept s).accepted = s.accepted + 1 := rfl
@[simp] theorem accept_inputs (s : State) : (accept s).inputs = s.inputs := rfl
@[simp] theorem accept_responses (s : State) : (accept s).responses = s.responses := rfl

/-! ### `overrun` -/

@[simp] theorem overrun_canvasW (s : State) : (overrun s).canvasW = s.canvasW := rfl
@[simp] theorem overrun_canvasH (s : State) : (overrun s).canvasH = s.canvasH := rfl
@[simp] theorem overrun_rectX (s : State) : (overrun s).rectX = s.rectX := rfl
@[simp] theorem overrun_rectY (s : State) : (overrun s).rectY = s.rectY := rfl
@[simp] theorem overrun_rectW (s : State) : (overrun s).rectW = s.rectW := rfl
@[simp] theorem overrun_rectH (s : State) : (overrun s).rectH = s.rectH := rfl
@[simp] theorem overrun_memSize (s : State) : (overrun s).memSize = s.memSize := rfl
@[simp] theorem overrun_busy (s : State) : (overrun s).busy = s.busy := rfl
@[simp] theorem overrun_done (s : State) : (overrun s).done = s.done := rfl
@[simp] theorem overrun_ovr (s : State) : (overrun s).ovr = true := rfl
@[simp] theorem overrun_err (s : State) : (overrun s).err = s.err := rfl
@[simp] theorem overrun_latch (s : State) : (overrun s).latch = s.latch := rfl
@[simp] theorem overrun_mem (s : State) : (overrun s).mem = s.mem := rfl
@[simp] theorem overrun_delay (s : State) : (overrun s).delay = s.delay - 1 := rfl
@[simp] theorem overrun_accepted (s : State) : (overrun s).accepted = s.accepted := rfl
@[simp] theorem overrun_inputs (s : State) : (overrun s).inputs = inputsAfter s.inputs := rfl
@[simp] theorem overrun_responses (s : State) :
    (overrun s).responses = .written :: s.responses := rfl

/-! ### `complete` -/

@[simp] theorem complete_canvasW (f : Latch → Memory → Memory) (s : State) :
    (complete f s).canvasW = s.canvasW := rfl
@[simp] theorem complete_canvasH (f : Latch → Memory → Memory) (s : State) :
    (complete f s).canvasH = s.canvasH := rfl
@[simp] theorem complete_rectX (f : Latch → Memory → Memory) (s : State) :
    (complete f s).rectX = s.rectX := rfl
@[simp] theorem complete_rectY (f : Latch → Memory → Memory) (s : State) :
    (complete f s).rectY = s.rectY := rfl
@[simp] theorem complete_rectW (f : Latch → Memory → Memory) (s : State) :
    (complete f s).rectW = s.rectW := rfl
@[simp] theorem complete_rectH (f : Latch → Memory → Memory) (s : State) :
    (complete f s).rectH = s.rectH := rfl
@[simp] theorem complete_memSize (f : Latch → Memory → Memory) (s : State) :
    (complete f s).memSize = s.memSize := rfl
@[simp] theorem complete_busy (f : Latch → Memory → Memory) (s : State) :
    (complete f s).busy = false := rfl
@[simp] theorem complete_done (f : Latch → Memory → Memory) (s : State) :
    (complete f s).done = true := rfl
@[simp] theorem complete_ovr (f : Latch → Memory → Memory) (s : State) :
    (complete f s).ovr = s.ovr := rfl
@[simp] theorem complete_err (f : Latch → Memory → Memory) (s : State) :
    (complete f s).err = .none := rfl
@[simp] theorem complete_latch (f : Latch → Memory → Memory) (s : State) :
    (complete f s).latch = s.latch := rfl
@[simp] theorem complete_mem (f : Latch → Memory → Memory) (s : State) :
    (complete f s).mem = f s.latch s.mem := rfl
@[simp] theorem complete_delay (f : Latch → Memory → Memory) (s : State) :
    (complete f s).delay = s.delay := rfl
@[simp] theorem complete_accepted (f : Latch → Memory → Memory) (s : State) :
    (complete f s).accepted = s.accepted := rfl
@[simp] theorem complete_inputs (f : Latch → Memory → Memory) (s : State) :
    (complete f s).inputs = s.inputs := rfl
@[simp] theorem complete_responses (f : Latch → Memory → Memory) (s : State) :
    (complete f s).responses = s.responses := rfl

/-! ### `wait` -/

@[simp] theorem wait_canvasW (s : State) : (wait s).canvasW = s.canvasW := rfl
@[simp] theorem wait_canvasH (s : State) : (wait s).canvasH = s.canvasH := rfl
@[simp] theorem wait_rectX (s : State) : (wait s).rectX = s.rectX := rfl
@[simp] theorem wait_rectY (s : State) : (wait s).rectY = s.rectY := rfl
@[simp] theorem wait_rectW (s : State) : (wait s).rectW = s.rectW := rfl
@[simp] theorem wait_rectH (s : State) : (wait s).rectH = s.rectH := rfl
@[simp] theorem wait_memSize (s : State) : (wait s).memSize = s.memSize := rfl
@[simp] theorem wait_busy (s : State) : (wait s).busy = s.busy := rfl
@[simp] theorem wait_done (s : State) : (wait s).done = s.done := rfl
@[simp] theorem wait_ovr (s : State) : (wait s).ovr = s.ovr := rfl
@[simp] theorem wait_err (s : State) : (wait s).err = s.err := rfl
@[simp] theorem wait_latch (s : State) : (wait s).latch = s.latch := rfl
@[simp] theorem wait_mem (s : State) : (wait s).mem = s.mem := rfl
@[simp] theorem wait_delay (s : State) : (wait s).delay = s.delay - 1 := rfl
@[simp] theorem wait_accepted (s : State) : (wait s).accepted = s.accepted := rfl
@[simp] theorem wait_inputs (s : State) : (wait s).inputs = s.inputs := rfl
@[simp] theorem wait_responses (s : State) : (wait s).responses = s.responses := rfl

/-! ### `writeStatus` -/

@[simp] theorem writeStatus_canvasW (s : State) (v : Word) :
    (s.writeStatus v).canvasW = s.canvasW := rfl
@[simp] theorem writeStatus_canvasH (s : State) (v : Word) :
    (s.writeStatus v).canvasH = s.canvasH := rfl
@[simp] theorem writeStatus_rectX (s : State) (v : Word) : (s.writeStatus v).rectX = s.rectX := rfl
@[simp] theorem writeStatus_rectY (s : State) (v : Word) : (s.writeStatus v).rectY = s.rectY := rfl
@[simp] theorem writeStatus_rectW (s : State) (v : Word) : (s.writeStatus v).rectW = s.rectW := rfl
@[simp] theorem writeStatus_rectH (s : State) (v : Word) : (s.writeStatus v).rectH = s.rectH := rfl
@[simp] theorem writeStatus_memSize (s : State) (v : Word) :
    (s.writeStatus v).memSize = s.memSize := rfl
@[simp] theorem writeStatus_busy (s : State) (v : Word) : (s.writeStatus v).busy = s.busy := rfl
@[simp] theorem writeStatus_done (s : State) (v : Word) :
    (s.writeStatus v).done = (s.done && !v.getLsbD 1) := rfl
@[simp] theorem writeStatus_ovr (s : State) (v : Word) :
    (s.writeStatus v).ovr = (s.ovr && !v.getLsbD 2) := rfl
@[simp] theorem writeStatus_err (s : State) (v : Word) : (s.writeStatus v).err = s.err := rfl
@[simp] theorem writeStatus_latch (s : State) (v : Word) : (s.writeStatus v).latch = s.latch := rfl
@[simp] theorem writeStatus_mem (s : State) (v : Word) : (s.writeStatus v).mem = s.mem := rfl
@[simp] theorem writeStatus_delay (s : State) (v : Word) : (s.writeStatus v).delay = s.delay := rfl
@[simp] theorem writeStatus_accepted (s : State) (v : Word) :
    (s.writeStatus v).accepted = s.accepted := rfl
@[simp] theorem writeStatus_inputs (s : State) (v : Word) :
    (s.writeStatus v).inputs = s.inputs := rfl
@[simp] theorem writeStatus_responses (s : State) (v : Word) :
    (s.writeStatus v).responses = s.responses := rfl

/-! ### `resetEvent` -/

@[simp] theorem resetEvent_canvasW (s : State) : (resetEvent s).canvasW = 0#16 := rfl
@[simp] theorem resetEvent_canvasH (s : State) : (resetEvent s).canvasH = 0#16 := rfl
@[simp] theorem resetEvent_rectX (s : State) : (resetEvent s).rectX = 0#16 := rfl
@[simp] theorem resetEvent_rectY (s : State) : (resetEvent s).rectY = 0#16 := rfl
@[simp] theorem resetEvent_rectW (s : State) : (resetEvent s).rectW = 0#16 := rfl
@[simp] theorem resetEvent_rectH (s : State) : (resetEvent s).rectH = 0#16 := rfl
@[simp] theorem resetEvent_memSize (s : State) : (resetEvent s).memSize = s.memSize := rfl
@[simp] theorem resetEvent_busy (s : State) : (resetEvent s).busy = false := rfl
@[simp] theorem resetEvent_done (s : State) : (resetEvent s).done = false := rfl
@[simp] theorem resetEvent_ovr (s : State) : (resetEvent s).ovr = false := rfl
@[simp] theorem resetEvent_err (s : State) : (resetEvent s).err = .none := rfl
@[simp] theorem resetEvent_latch (s : State) :
    (resetEvent s).latch = Latch.ofBits (Config.unspecifiedLatch (s.mem.generation + 1)) := rfl
@[simp] theorem resetEvent_mem (s : State) : (resetEvent s).mem = s.mem.afterReset := rfl
@[simp] theorem resetEvent_delay (s : State) : (resetEvent s).delay = 0 := rfl
@[simp] theorem resetEvent_accepted (s : State) : (resetEvent s).accepted = s.accepted := rfl
@[simp] theorem resetEvent_inputs (s : State) : (resetEvent s).inputs = inputsAfter s.inputs := rfl
@[simp] theorem resetEvent_responses (s : State) : (resetEvent s).responses = s.responses := rfl

end Sys2Proof.Machine
end

