-- ==== Sys2Proof/Laws/Ops.lean ====
section
/-!
SUPPORT. What each shared operation can do, said once: validation, issue, a command's step, the
ports, the fetch and the step.
-/

namespace Sys2Proof.Machine

/-! ### The opcode map -/

@[simp] theorem decodeOp_opcodeOf (i : Instr) : decodeOp (opcodeOf i) = .ok i := by
  cases i <;> rfl

theorem decodeOp_ok {op : OpCode} {i : Instr} (h : decodeOp op = .ok i) : op = opcodeOf i := by
  unfold decodeOp at h
  split_ifs at h with h1 h2 h3 <;> cases h <;> assumption

theorem decodeOp_error {op : OpCode} {e : DecodeError} (h : decodeOp op = .error e) :
    e = .illegalOp op ∧ op ≠ 0x1#4 ∧ op ≠ 0x2#4 ∧ op ≠ 0x3#4 := by
  unfold decodeOp at h
  split_ifs at h with h1 h2 h3
  cases h
  exact ⟨rfl, h1, h2, h3⟩

/-! ### The life of a command -/

/-- When validation passes (R52). -/
theorem validate_eq_none {l : Latch} {memBytes : Nat} :
    validate l memBytes = .none ↔
      (l.op = 0x1#4 ∨ l.op = 0x2#4 ∨ l.op = 0x3#4) ∧ l.canvasBytes ≤ memBytes ∧
      (l.op = 0x1#4 ∨ l.op = 0x3#4 →
        l.h.toNat ≠ 0 ∧ l.bottom ≤ l.ch.toNat ∧ l.rightX ≤ (l.cw.toNat : Int)) := by
  unfold validate
  split_ifs with h1 h2 h3 h4 h5 h6
  · simp only [false_iff]; tauto
  · simp only [false_iff]; omega
  · simp only [false_iff]; tauto
  · simp only [false_iff]
    rintro ⟨-, -, h⟩
    have := (h h3).2.1
    omega
  · simp only [false_iff]
    rintro ⟨-, -, h⟩
    have := (h h3).2.2
    omega
  · simp only [true_iff]
    exact ⟨by tauto, by omega, fun _ => ⟨h4, by omega, by omega⟩⟩
  · simp only [true_iff]
    exact ⟨by tauto, by omega, fun h => absurd h h3⟩

/-- The latch, the flags and the model's fields an issue writes before it validates (R50). -/
theorem issue_eq (op : OpCode) (s : State) :
    issue op s = match validate (s.latched op) s.memBytes with
      | .none => accept (s.issued op)
      | e => errorComplete e (s.issued op) := rfl

/-- An issue ends in acceptance or in an error completion (R53, R54). -/
theorem issue_cases (op : OpCode) (s : State) :
    (validate (s.latched op) s.memBytes = .none ∧ issue op s = accept (s.issued op)) ∨
    (validate (s.latched op) s.memBytes ≠ .none ∧
      issue op s = errorComplete (validate (s.latched op) s.memBytes) (s.issued op)) := by
  rw [issue_eq]
  cases validate (s.latched op) s.memBytes <;> simp

/-- A CMD write is an overrun or an issue (R11, R51). -/
theorem hostCommand_cases (op : OpCode) (s : State) :
    (s.busy = true ∧ hostCommand op s = overrun s) ∨
    (s.busy = false ∧ hostCommand op s = issue op s) := by
  unfold hostCommand
  cases s.busy <;> simp

theorem engineTurn_iff {s : State} : s.engineTurn = true ↔ s.busy = true ∧ s.delay = 0 := by
  simp [State.engineTurn]

theorem engineTurn_of_idle {s : State} (h : s.busy = false) : s.engineTurn = false := by
  simp [State.engineTurn, h]

theorem engineTurn_of_delay {s : State} (h : s.delay ≠ 0) : s.engineTurn = false := by
  simp [State.engineTurn, h]

/-- The meaning of a command is a step of its life with its own memory effect. -/
theorem exec_eq (i : Instr) (s : State) :
    exec i s = .next (commandStep (opcodeOf i) (commandEffect i) s) := by
  cases i <;> rfl

/-- The completion step of a pending command (R55). -/
theorem exec_complete {i : Instr} {s : State} (h : s.engineTurn = true)
    (hop : s.latch.op = opcodeOf i) : exec i s = .next (complete (commandEffect i) s) := by
  rw [exec_eq, commandStep]
  simp [h, hop]

/-- In HOST's turn a command's step is the write of it to CMD (R11). -/
theorem exec_host {s : State} (i : Instr) (h : s.engineTurn = false) :
    exec i s = .next (hostCommand (opcodeOf i) s) := by
  rw [exec_eq, commandStep]
  simp [h]

/-! ### The ports and the step -/

theorem Input.cmdWord_some {input : Input} {w : Word} (h : input.cmdWord = some w) :
    input = .regWrite 32 0x000#12 w ∨ input = .run w := by
  cases input <;> simp only [Input.cmdWord, reduceCtorEq, Option.some.injEq] at h
  · split_ifs at h with hc
    obtain ⟨rfl, rfl⟩ := hc
    cases h
    exact .inl rfl
  · exact .inr (congrArg _ h)

/-- Performing a CMD write is the CMD write of R11. -/
theorem perform_cmdWord {input : Input} {w : Word} (h : input.cmdWord = some w) (s : State) :
    perform input s = hostCommand (opField w) s := by
  rcases Input.cmdWord_some h with rfl | rfl <;> rfl

/-- What a step does: the ENGINE completes the pending command (R55), the block waits, or the next
input is performed. -/
theorem step_cases {s t : State} (h : step s = .next t) :
    (s.engineTurn = true ∧ ∃ i, s.latch.op = opcodeOf i ∧ t = complete (commandEffect i) s) ∨
    (s.engineTurn = false ∧ s.inputs = [] ∧ t = wait s) ∨
    (s.engineTurn = false ∧ ∃ input rest, s.inputs = input :: rest ∧ t = perform input s) := by
  unfold step fetch at h
  cases ht : s.engineTurn with
  | true =>
    refine .inl ⟨rfl, ?_⟩
    simp only [ht, if_true, engineStep] at h
    cases hd : decodeOp s.latch.op with
    | error e => cases e; simp [hd] at h
    | ok i =>
      have hop := decodeOp_ok hd
      simp only [hd, exec_complete ht hop] at h
      exact ⟨i, hop, by cases h; rfl⟩
  | false =>
    refine .inr ?_
    simp only [ht, Bool.false_eq_true, if_false] at h
    cases hi : s.inputs with
    | nil =>
      simp only [hi] at h
      exact .inl ⟨rfl, rfl, by cases h; rfl⟩
    | cons input rest =>
      refine .inr ⟨rfl, input, rest, rfl, ?_⟩
      simp only [hi, inputStep] at h
      cases hw : input.cmdWord with
      | none => simp only [hw] at h; cases h; rfl
      | some w =>
        cases hd : decode w with
        | error e => simp only [hw, hd] at h; cases h; rfl
        | ok i =>
          simp only [hw, hd, exec_host i ht] at h
          cases h
          rw [perform_cmdWord hw, decodeOp_ok hd]

/-- HOST's step in the forward direction: the next input is performed. -/
theorem step_input {s : State} {input : Input} {rest : List Input} (ht : s.engineTurn = false)
    (hi : s.inputs = input :: rest) : step s = .next (perform input s) := by
  unfold step fetch
  simp only [ht, Bool.false_eq_true, if_false, hi, inputStep]
  cases hw : input.cmdWord with
  | none => rfl
  | some w =>
    cases hd : decode w with
    | error e => simp only [hd]
    | ok i =>
      simp only [hd, exec_host i ht]
      rw [perform_cmdWord hw, ← decodeOp_ok hd]

/-- The ENGINE's step in the forward direction. -/
theorem step_engine {s : State} {i : Instr} (ht : s.engineTurn = true)
    (hop : s.latch.op = opcodeOf i) : step s = .next (complete (commandEffect i) s) := by
  unfold step fetch
  simp [ht, engineStep, hop, exec_complete ht hop]

/-- What performing an input can do: answer without a change, repeat a poll, write to CMD, write
another register, write MEM, or reset. -/
theorem perform_cases (input : Input) (s : State) :
    (∃ r, perform input s = retire r s) ∨
    (input = .poll ∧ s.busy = true ∧ ∃ r, perform input s = respond r s) ∨
    (∃ w, input.cmdWord = some w ∧ perform input s = hostCommand (opField w) s) ∨
    (∃ offset v, input = .regWrite 32 offset v ∧ offset ≠ 0x000#12 ∧ offset.toNat % 4 = 0 ∧
      perform input s = retire .written (regWrite s offset v)) ∨
    (∃ width a v, input = .memWrite width a v ∧ memTakes s width a = true ∧
      perform input s = retire .written { s with mem := memStore s.mem width a v }) ∨
    (input = .reset ∧ perform input s = resetEvent s) := by
  cases input with
  | regRead width offset =>
    refine .inl ?_
    simp only [perform, regReadAccess]
    split_ifs <;> exact ⟨_, rfl⟩
  | regWrite width offset v =>
    simp only [perform, regWriteAccess]
    split_ifs with h1 h2
    · simp only [regTakes, Bool.and_eq_true, beq_iff_eq] at h1
      exact .inr (.inr (.inl ⟨v, by simp [Input.cmdWord, h1.1, h2], rfl⟩))
    · simp only [regTakes, Bool.and_eq_true, beq_iff_eq] at h1
      exact .inr (.inr (.inr (.inl ⟨offset, v, by rw [h1.1], h2, h1.2, rfl⟩)))
    · exact .inl ⟨_, rfl⟩
  | memRead width a =>
    refine .inl ?_
    simp only [perform, memReadAccess]
    split_ifs <;> exact ⟨_, rfl⟩
  | memWrite width a v =>
    simp only [perform, memWriteAccess]
    split_ifs with h
    · exact .inr (.inr (.inr (.inr (.inl ⟨width, a, v, rfl, by simpa using h, rfl⟩))))
    · exact .inl ⟨_, rfl⟩
  | poll =>
    cases h : s.busy with
    | true => exact .inr (.inl ⟨rfl, rfl, _, if_pos h⟩)
    | false => exact .inl ⟨_, if_neg (by simp [h])⟩
  | run w => exact .inr (.inr (.inl ⟨w, rfl, rfl⟩))
  | reset => exact .inr (.inr (.inr (.inr (.inr ⟨rfl, rfl⟩))))

/-- What a write to a register other than CMD leaves as it was (R13 to R21). -/
theorem regWrite_frame (s : State) (offset : RegOffset) (v : Word) :
    (regWrite s offset v).memSize = s.memSize ∧ (regWrite s offset v).busy = s.busy ∧
    (regWrite s offset v).err = s.err ∧ (regWrite s offset v).latch = s.latch ∧
    (regWrite s offset v).mem = s.mem ∧ (regWrite s offset v).delay = s.delay ∧
    (regWrite s offset v).accepted = s.accepted ∧ (regWrite s offset v).inputs = s.inputs ∧
    (regWrite s offset v).responses = s.responses ∧
    ((regWrite s offset v).done = s.done ∨ (regWrite s offset v).done = false) := by
  unfold regWrite State.writeStatus
  split_ifs <;> simp
  cases s.done <;> cases v.getLsbD 1 <;> simp

/-- A memory-port access is taken only inside MEM and with BUSY = 0 (R29 to R32). -/
theorem memTakes_iff {s : State} {width : Nat} {a : MemAddr} :
    memTakes s width a = true ↔ s.busy = false ∧
      (width = 8 ∧ a.toNat < s.memBytes ∨
        width = 32 ∧ a.toNat % 4 = 0 ∧ a.toNat + 3 < s.memBytes) := by
  simp [memTakes, and_assoc]

end Sys2Proof.Machine
end

