-- ==== Sys2Proof/Laws/PerInstr.lean ====
section
/-!
SUPPORT. Facts stated for every command, one lemma a constructor.
-/

namespace Sys2Proof.Laws

/-- A command is well formed, its number is decoded back to it, and its encoding follows the
convention of R43. -/
def Encoding.Statement (i : Instr) : Prop :=
  i.wellFormed = true ∧ decodeOp (opcodeOf i) = .ok i ∧ conventionalWord (encode i) = true

theorem Encoding.rasterize : Encoding.Statement .rasterize := ⟨rfl, rfl, rfl⟩

theorem Encoding.clear : Encoding.Statement .clear := ⟨rfl, rfl, rfl⟩

theorem Encoding.drawRect : Encoding.Statement .drawRect := ⟨rfl, rfl, rfl⟩

end Sys2Proof.Laws
end

