-- ==== Sys2Proof/Laws/Run.lean ====
section
/-!
SUPPORT. Runs of several steps: the first step of a run, and a run cut in two.
-/

namespace Sys2Proof.Laws

/-- A run of no steps stays where it is. -/
theorem run_zero {M : Host.Core} (s : M.State) : M.run 0 s = .next s := rfl

/-- A run whose first step answers a next state goes on from there. -/
theorem run_next {M : Host.Core} {n : Nat} {s t : M.State} (h : M.step s = .next t) :
    M.run (n + 1) s = M.run n t := by
  simp [Host.Core.run, h]

/-- A run that answers a next state goes on from there. -/
theorem run_append {M : Host.Core} {n k : Nat} {s t : M.State} (h : M.run n s = .next t) :
    M.run (n + k) s = M.run k t := by
  induction n generalizing s with
  | zero => cases h; rw [Nat.zero_add]
  | succ n ih =>
    rw [Nat.add_right_comm]
    cases hs : M.step s with
    | next u =>
      rw [run_next hs] at h ⊢
      exact ih h
    | fault r => simp [Host.Core.run, hs] at h
    | refused r => simp [Host.Core.run, hs] at h

end Sys2Proof.Laws
end

