-- ==== Sys2Proof/Tests/Slice0.lean ====
section
/-!
SUPPORT. The model's own tests. Expected values are the vectors of `spec/95_test_vectors.md` (S, V,
CV, EV, RV, MV and the programs) and the words of `spec/30_encoding.md` R45, written out; then, for
every statement with hypotheses, a state and operands that meet them.
-/

namespace Sys2Proof.Tests

open Sys2Proof Sys2Proof.Machine

/-! ### Small states -/

/-- An idle block with a mask memory of 64 bytes. -/
def idle : State :=
  { State.reset with memSize := 64#32, latch := ⟨0, 0, 0, 0, 0, 0, 0⟩ }

/-- The idle block with its operand registers and the host's next lines set. -/
def withOperands (cw ch x y w h : Half) (inputs : List Input) : State :=
  { idle with
    canvasW := cw, canvasH := ch, rectX := x, rectY := y, rectW := w, rectH := h,
    inputs := inputs }

/-- A pending command with the given latch, `delay` steps before its completion, and the bytes of
MEM from address 0. -/
def pending (delay : Nat) (l : Latch) (bytes : List Byte) (inputs : List Input) : State :=
  { idle with
    busy := true, latch := l, delay := delay, inputs := inputs,
    mem := { cells := (List.range bytes.length).zip bytes, generation := 0 } }

/-- The next state, if there is one, seen through a function. -/
def after {α : Type} (f : State → α) : Host.Outcome State Fault Refusal → Option α
  | .next t => some (f t)
  | .fault _ => none
  | .refused _ => none

/-- The first bytes of MEM. -/
def bytes (n : Nat) (s : State) : List Byte :=
  (List.range n).map s.mem.read

/-! ### Encoding: words written out from R45 -/

theorem test_decode_rasterize : decode 0b00000000000000000000000000000001#32 = .ok .rasterize := by
  decide

theorem test_decode_clear : decode 0b00000000000000000000000000000010#32 = .ok .clear := by decide

theorem test_decode_drawRect : decode 0b00000000000000000000000000000011#32 = .ok .drawRect := by
  decide

/-- EV18: bits 31..4 are ignored. -/
theorem test_decode_ignores_high_bits : decodeTableWord 32 0xFFFFFFF1 = some .rasterize := by
  decide

/-- EV7, EV8: OP 0 and OP 15 are illegal. -/
theorem test_decode_illegal :
    decode 0x00000000#32 = .error (.illegalOp 0#4) ∧
      decode 0x0000000F#32 = .error (.illegalOp 15#4) := by
  decide

/-! ### Well-formedness: each check refuses an ill-formed term -/

theorem smoke_memory_of_no_bytes_refused : memSizeWellFormed 0 = false := by decide

theorem smoke_memory_too_large_refused : memSizeWellFormed 536870913 = false := by decide

theorem smoke_unconventional_word_refused : conventionalWord 0x00000011#32 = false := by decide

/-! ### Spans: V6, V10, V14 and V18 of the vectors -/

theorem test_span_multi_byte :
    (List.range 3).map
        (drawMaskedSpan 0 3 21 { cells := [(0, 0), (1, 0), (2, 0)], generation := 0 }).read
      = [0xF8#8, 0xFF#8, 0x1F#8] := by
  decide

theorem test_span_ends_on_byte_boundary :
    drawMaskedSpan 0 6 8 { cells := [(0, 0), (1, 0)], generation := 0 }
      = { cells := [(0, 0xC0), (1, 0)], generation := 0 } := by
  decide

theorem test_span_left_of_zero_is_empty :
    drawMaskedSpan 0 (-20) (-15) { cells := [(0, 0)], generation := 0 }
      = { cells := [(0, 0)], generation := 0 } := by
  decide

/-! ### Commands, one step each -/

/-- CV1: RASTERIZE of the whole 12 by 2 canvas; the padding bits are 0. -/
theorem test_rasterize_completes :
    after (bytes 5) (exec .rasterize (pending 0 ⟨1#4, 12, 2, 0, 0, 12, 2⟩
      (List.replicate 5 0xAA#8) [])) = some [0xFF#8, 0x0F#8, 0xFF#8, 0x0F#8, 0xAA#8] := by
  decide

/-- S3, CV4: a negative offset-x is clamped, -5 with width 10 is 0 with width 5. -/
theorem test_rasterize_clamps_left :
    after (bytes 2) (exec .rasterize (pending 0 ⟨1#4, 8, 1, 0xFFFB, 0, 10, 1⟩
      [0xAA#8, 0xAA#8] [])) = some [0x1F#8, 0xAA#8] := by
  decide

/-- CV6: CLEAR of a 9 by 1 canvas, whatever the rectangle. -/
theorem test_clear_completes :
    after (fun t => (bytes 4 t, t.statusWord)) (exec .clear (pending 0 ⟨2#4, 9, 1, 100, 9, 9, 0⟩
      (List.replicate 4 0xFF#8) [])) = some ([0x00#8, 0x00#8, 0xFF#8, 0xFF#8], 0x02#32) := by
  decide

/-- EV11: CLEAR checks no rectangle, so it becomes pending. -/
theorem test_clear_accepted :
    after State.statusWord (exec .clear (withOperands 8 1 100 9 9 9 [])) = some 0x01#32 := by
  decide

/-- V24: DRAW_RECT ORs over two bytes. -/
theorem test_drawRect_ors :
    after (bytes 2) (exec .drawRect (pending 0 ⟨3#4, 16, 1, 5, 0, 6, 1⟩ [0x06#8, 0x00#8] []))
      = some [0xE6#8, 0x07#8] := by
  decide

/-- EV12: the right edge is checked although the span is empty. -/
theorem test_drawRect_rejected :
    after State.statusWord (exec .drawRect (withOperands 50 1 100 0 0 1 [])) = some 0x22#32 := by
  decide

/-! ### Ports, one step each -/

/-- RV9: a write of ones to STATUS clears DONE and OVR and keeps ERR. -/
theorem test_status_write :
    after State.statusWord (step { idle with
      done := true, ovr := true, err := .invalidRectangle,
      inputs := [.regWrite 32 0x004#12 0xFFFFFFFF#32] }) = some 0x20#32 := by
  decide

/-- RV1: RECT_X keeps its low 16 bits and means -5. -/
theorem test_rectX_write :
    after (fun t => (regRead t 0x010#12, sval t.rectX))
      (step (withOperands 0 0 0 0 0 0 [.regWrite 32 0x010#12 0x1234FFFB#32]))
      = some (0x0000FFFB#32, -5) := by
  decide

/-- MV2: a word write is little-endian. -/
theorem test_word_write :
    after (fun t => t.mem.cells) (step (withOperands 0 0 0 0 0 0 [.memWrite 32 4#32 0xAABBCCDD#32]))
      = some [(4, 0xDD#8), (5, 0xCC#8), (6, 0xBB#8), (7, 0xAA#8)] := by
  decide

/-- MV3: a misaligned word read gets BUS_ERROR and no data. -/
theorem test_misaligned_word_read :
    after State.responses (step (withOperands 0 0 0 0 0 0 [.memRead 32 2#32]))
      = some [.busError] := by
  decide

/-- RV12: a CMD write while BUSY = 1 sets OVR. -/
theorem test_cmd_write_while_busy :
    after State.statusWord (step (pending 1 ⟨1#4, 8, 1, 0, 0, 8, 1⟩ [] [.run 2#32]))
      = some 0x05#32 := by
  decide

/-! ### For each statement with hypotheses, what meets them -/

theorem witness_DecodeReadsOpFieldOnly :
    (0xFFFFFFF0#32 : Word).toNat % 16 = 0 ∧ 4 ≤ (0x4#32 : Word).toNat % 16 := by
  decide

theorem witness_DecodeEncodeAgree :
    Instr.wellFormed .drawRect = true ∧ decode 0xFFFFFFF3#32 = .ok .drawRect := by
  decide

theorem witness_StepRunsDecodedCommand :
    (∃ (s : State) (w : Word) (rest : List Input), s.engineTurn = false ∧
      s.inputs = .regWrite 32 0x000#12 w :: rest ∧ s.nextWritesCmd w rest ∧
      decode w = .ok .rasterize) ∧
    (∃ (s : State) (w : Word) (rest : List Input), s.engineTurn = false ∧
      s.inputs = .run w :: rest ∧ s.nextWritesCmd w rest ∧ decode w = .ok .clear) ∧
    (∃ s : State, s.engineTurn = true ∧ s.latch.op = opcodeOf .drawRect) :=
  ⟨⟨withOperands 0 0 0 0 0 0 [.regWrite 32 0x000#12 1#32], 1#32, [], by decide⟩,
    ⟨pending 1 ⟨1#4, 8, 1, 0, 0, 8, 1⟩ [] [.run 2#32], 2#32, [], by decide⟩,
    ⟨pending 0 ⟨3#4, 8, 1, 0, 0, 8, 1⟩ [] [], by decide⟩⟩

theorem witness_IllegalWordCompletesWithError :
    (∃ (s : State) (w : Word) (rest : List Input), s.busy = false ∧ s.nextWritesCmd w rest ∧
      w.toNat % 16 = 0) ∧
    (∃ (s : State) (w : Word) (rest : List Input), s.busy = false ∧ s.nextWritesCmd w rest ∧
      4 ≤ w.toNat % 16) :=
  ⟨⟨withOperands 8 1 0 0 1 1 [.regWrite 32 0x000#12 0#32], 0#32, [], by decide⟩,
    ⟨withOperands 8 1 0 0 1 1 [.run 4#32], 4#32, [], by decide⟩⟩

theorem witness_CmdWriteWhileBusyOnlySetsOvr :
    ∃ (s : State) (w : Word) (rest : List Input), s.busy = true ∧ s.delay ≠ 0 ∧
      s.nextWritesCmd w rest :=
  ⟨pending 1 ⟨1#4, 8, 1, 0, 0, 8, 1⟩ [] [.regWrite 32 0x000#12 2#32], 2#32, [], by decide⟩

theorem witness_WaitingChangesNothing :
    ∃ s : State, s.engineTurn = false ∧ s.inputs = [] :=
  ⟨pending 1 ⟨1#4, 8, 1, 0, 0, 8, 1⟩ [] [], by decide⟩

theorem witness_PollReadsUntilBusyIsZero :
    (∃ (s : State) (rest : List Input), s.engineTurn = false ∧ s.inputs = .poll :: rest ∧
      s.busy = true) ∧
    (∃ (s : State) (rest : List Input), s.engineTurn = false ∧ s.inputs = .poll :: rest ∧
      s.busy = false) :=
  ⟨⟨pending 1 ⟨1#4, 8, 1, 0, 0, 8, 1⟩ [] [.poll], [], by decide⟩,
    ⟨withOperands 0 0 0 0 0 0 [.poll], [], by decide⟩⟩

theorem witness_PlacedWordRunsNext : decodeTableWord 32 0xFFFFFFF3 = some .drawRect := by decide

/-- The canvas and the rectangle that just fit: 64 bytes of 64, the last row and column. -/
theorem witness_ValidCommandBecomesPending :
    ∃ s : State, s.busy = false ∧ s.canvasFits ∧ s.rectangleFits :=
  ⟨withOperands 64 8 60 7 4 1 [], by decide⟩

/-- EV16: 72 bytes in a memory of 64. -/
theorem witness_OversizeCanvasIsRejected :
    ∃ s : State, s.busy = false ∧ ¬ s.canvasFits :=
  ⟨withOperands 64 9 0 0 1 1 [], by decide⟩

/-- EV1: one pixel past the right edge. -/
theorem witness_BadRectangleIsRejected :
    ∃ s : State, s.busy = false ∧ s.canvasFits ∧ ¬ s.rectangleFits :=
  ⟨withOperands 10 4 8 0 3 1 [], by decide⟩

theorem witness_ValidateReportsFirstCause :
    validate ⟨0#4, 65535, 65535, 0, 0, 0, 0⟩ 4096 = .illegalCommand ∧
    validate ⟨15#4, 8, 1, 0, 0, 1, 1⟩ 64 = .illegalCommand ∧
    validate ⟨1#4, 64, 9, 0, 0, 0, 0⟩ 64 = .invalidInputSize ∧
    validate ⟨1#4, 10, 4, 0, 3, 4, 2⟩ 64 = .invalidRectangle ∧
    validate ⟨3#4, 32766, 1, 0x8000, 0, 65535, 1⟩ 8192 = .invalidRectangle := by
  decide

theorem witness_RasterizeCompletionDrawsRectangle :
    ∃ s : State, s.busy = true ∧ s.delay = 0 ∧ s.latch.op = 1#4 ∧
      validate s.latch s.memBytes = .none ∧ 1 < s.latch.ch.toNat ∧ 15 < 8 * s.latch.pitch ∧
      s.latch.canvasBytes ≤ 4 :=
  ⟨pending 0 ⟨1#4, 12, 2, 0, 0, 12, 2⟩ [] [], by decide⟩

theorem witness_ClearCompletionZeroesCanvas :
    ∃ s : State, s.busy = true ∧ s.delay = 0 ∧ s.latch.op = 2#4 ∧
      1 < (s.latch.cw.toNat + 7) / 8 * s.latch.ch.toNat ∧
      (s.latch.cw.toNat + 7) / 8 * s.latch.ch.toNat ≤ 2 :=
  ⟨pending 0 ⟨2#4, 9, 1, 0, 0, 0, 0⟩ [] [], by decide⟩

theorem witness_DrawRectCompletionOrsRectangle :
    ∃ s : State, s.busy = true ∧ s.delay = 0 ∧ s.latch.op = 3#4 ∧
      validate s.latch s.memBytes = .none ∧ 0 < s.latch.ch.toNat ∧ 15 < 8 * s.latch.pitch ∧
      s.latch.canvasBytes ≤ 2 :=
  ⟨pending 0 ⟨3#4, 16, 1, 5, 0, 6, 1⟩ [] [], by decide⟩

theorem witness_RasterizeIsClearThenDrawRect :
    validate { (⟨0#4, 12, 2, 0, 0, 12, 2⟩ : Latch) with op := 1#4 } 64 = .none := by
  decide

theorem witness_CompletionsAreIdempotent :
    3 < (⟨1#4, 12, 2, 0, 0, 12, 2⟩ : Latch).canvasBytes := by
  decide

theorem witness_SpanSetsExactlyItsPixels : (0 : Nat) < 8 ∧ (7 : Nat) < 8 := by decide

/-- RV3: nine pixels need two bytes. -/
theorem witness_PitchIsLeastCover :
    (withOperands 9 1 0 0 0 0 []).canvasW.toNat ≤ 2 * 8 ∧
    ∃ (s : State) (v : Word) (rest : List Input), s.engineTurn = false ∧
      s.inputs = .regWrite 32 0x020#12 v :: rest :=
  ⟨by decide, withOperands 9 1 0 0 0 0 [.regWrite 32 0x020#12 7#32], 7#32, [], by decide⟩

theorem witness_SingleByteConditionsAgree :
    5 < 7 ∧ bitOffset 5 + (7 - 5) < 8 ∧ 6 < 8 ∧ ¬ bitOffset 6 + (8 - 6) < 8 ∧ bitOffset 8 = 0 := by
  decide

theorem witness_SpanStaysInItsRow :
    (10 : Int) ≤ ((10#16 : Half).toNat : Int) ∧ 0 + pitchOf 10#16 ≤ 2 ∧
      (10#16 : Half).toNat ≤ 8 * 1 + 2 := by
  decide

theorem witness_RowsAreIndependent :
    ∃ l : Latch, l.rightX ≤ (l.cw.toNat : Int) ∧
      [2, 1].Perm (List.range' l.y.toNat l.h.toNat) ∧
      l.y.toNat ≤ 2 ∧ 2 < l.bottom ∧ 1 < l.pitch :=
  ⟨⟨1#4, 16, 3, 2, 1, 10, 2⟩, by decide⟩

theorem witness_RegisterReadHasNoSideEffect :
    ∃ (s : State) (offset : RegOffset) (rest : List Input), s.engineTurn = false ∧
      s.inputs = .regRead 32 offset :: rest ∧ offset.toNat % 4 = 0 :=
  ⟨pending 1 ⟨1#4, 8, 1, 0, 0, 8, 1⟩ [] [.regRead 32 0xFFC#12], 0xFFC#12, [], by decide⟩

/-- RV6: the first and the last reserved offset. -/
theorem witness_ReservedOffsetsAreInert :
    (∃ (s : State) (rest : List Input), s.engineTurn = false ∧
      0x028 ≤ (0x028#12 : RegOffset).toNat ∧ (0x028#12 : RegOffset).toNat % 4 = 0 ∧
      s.inputs = .regRead 32 0x028#12 :: rest) ∧
    (∃ (s : State) (v : Word) (rest : List Input), s.engineTurn = false ∧
      0x028 ≤ (0xFFC#12 : RegOffset).toNat ∧ (0xFFC#12 : RegOffset).toNat % 4 = 0 ∧
      s.inputs = .regWrite 32 0xFFC#12 v :: rest) :=
  ⟨⟨withOperands 0 0 0 0 0 0 [.regRead 32 0x028#12], [], by decide⟩,
    ⟨withOperands 0 0 0 0 0 0 [.regWrite 32 0xFFC#12 1#32], 1#32, [], by decide⟩⟩

theorem witness_StatusWriteClearsWrittenOnes :
    ∃ (s : State) (v : Word) (rest : List Input), s.engineTurn = false ∧
      s.inputs = .regWrite 32 0x004#12 v :: rest :=
  ⟨pending 1 ⟨1#4, 8, 1, 0, 0, 8, 1⟩ [] [.regWrite 32 0x004#12 6#32], 6#32, [], by decide⟩

theorem witness_OperandWriteStoresLowHalf :
    ∀ offset ∈ ([0x008#12, 0x00C#12, 0x010#12, 0x014#12, 0x018#12, 0x01C#12] : List RegOffset),
      ∃ s : State, s.engineTurn = false ∧ s.inputs = [.regWrite 32 offset 0xFFFF0009#32] :=
  fun offset _ => ⟨withOperands 0 0 0 0 0 0 [.regWrite 32 offset 0xFFFF0009#32], rfl, rfl⟩

theorem witness_MemSizeNeverChanges :
    (∃ s t : State, step s = .next t) ∧
    ∃ (s : State) (v : Word) (rest : List Input), s.engineTurn = false ∧
      s.inputs = .regWrite 32 0x024#12 v :: rest :=
  ⟨⟨idle, idle, rfl⟩,
    ⟨withOperands 0 0 0 0 0 0 [.regWrite 32 0x024#12 0#32], 0#32, [], by decide⟩⟩

/-- MV5: the last byte of a memory of 64. -/
theorem witness_MemoryByteAccess :
    (∃ (s : State) (a : MemAddr) (rest : List Input), s.busy = false ∧
      a.toNat < s.memSize.toNat ∧ s.inputs = .memRead 8 a :: rest) ∧
    (∃ (s : State) (a : MemAddr) (v : Word) (rest : List Input), s.busy = false ∧
      a.toNat < s.memSize.toNat ∧ s.inputs = .memWrite 8 a v :: rest) :=
  ⟨⟨withOperands 0 0 0 0 0 0 [.memRead 8 63#32], 63#32, [], by decide⟩,
    ⟨withOperands 0 0 0 0 0 0 [.memWrite 8 63#32 1#32], 63#32, 1#32, [], by decide⟩⟩

theorem witness_MemoryWordAccessIsLittleEndian :
    (∃ (s : State) (a : MemAddr) (rest : List Input), s.busy = false ∧ a.toNat % 4 = 0 ∧
      a.toNat + 3 < s.memSize.toNat ∧ s.inputs = .memRead 32 a :: rest) ∧
    (∃ (s : State) (a : MemAddr) (v : Word) (rest : List Input), s.busy = false ∧
      a.toNat % 4 = 0 ∧ a.toNat + 3 < s.memSize.toNat ∧ s.inputs = .memWrite 32 a v :: rest) :=
  ⟨⟨withOperands 0 0 0 0 0 0 [.memRead 32 60#32], 60#32, [], by decide⟩,
    ⟨withOperands 0 0 0 0 0 0 [.memWrite 32 60#32 1#32], 60#32, 1#32, [], by decide⟩⟩

theorem witness_BadMemoryAccessGetsBusError :
    ∀ q ∈ ([(16, 0#32), (8, 64#32), (32, 2#32), (32, 64#32)] : List (Nat × MemAddr)),
      ∃ s : State, s.engineTurn = false ∧
        (q.1 ≠ 8 ∧ q.1 ≠ 32 ∨ q.1 = 8 ∧ s.memSize.toNat ≤ q.2.toNat ∨
          q.1 = 32 ∧ (q.2.toNat % 4 ≠ 0 ∨ s.memSize.toNat ≤ q.2.toNat + 3)) ∧
        s.inputs = [.memRead q.1 q.2] := by
  intro q hq
  refine ⟨withOperands 0 0 0 0 0 0 [.memRead q.1 q.2], rfl, ?_, rfl⟩
  revert q
  decide

theorem witness_MemoryPortIsClosedWhileBusy :
    ∃ (s : State) (width : Nat) (a : MemAddr) (v : Word) (rest : List Input), s.busy = true ∧
      s.delay ≠ 0 ∧
      (s.inputs = .memRead width a :: rest ∨ s.inputs = .memWrite width a v :: rest) :=
  ⟨pending 1 ⟨1#4, 8, 1, 0, 0, 8, 1⟩ [] [.memRead 8 0#32], 8, 0#32, 0#32, [], by decide⟩

theorem witness_BadRegisterAccessGetsBusError :
    (∃ (s : State) (v : Word) (rest : List Input), s.engineTurn = false ∧
      s.inputs = .regWrite 8 0x008#12 v :: rest) ∧
    (∃ (s : State) (rest : List Input), s.engineTurn = false ∧
      (0x006#12 : RegOffset).toNat % 4 ≠ 0 ∧ s.inputs = .regRead 32 0x006#12 :: rest) :=
  ⟨⟨withOperands 0 0 0 0 0 0 [.regWrite 8 0x008#12 0#32], 0#32, [], by decide⟩,
    ⟨withOperands 0 0 0 0 0 0 [.regRead 32 0x006#12], [], by decide⟩⟩

theorem witness_ResetClearsRegisters :
    ∃ (s : State) (rest : List Input), s.engineTurn = false ∧ s.inputs = .reset :: rest :=
  ⟨pending 1 ⟨1#4, 8, 1, 0, 0, 8, 1⟩ [] [.reset], [], by decide⟩

theorem witness_ResetLeavesMemoryUnspecified :
    (∃ (s : State) (rest : List Input), s.engineTurn = false ∧ s.busy = true ∧
      s.mem.cells ≠ [] ∧ s.inputs = .reset :: rest) ∧
    (∃ (s : State) (rest : List Input), s.engineTurn = false ∧ s.busy = false ∧
      s.inputs = .reset :: rest) :=
  ⟨⟨pending 1 ⟨1#4, 8, 1, 0, 0, 8, 1⟩ [0xAA#8] [.reset], [], by decide⟩,
    ⟨withOperands 0 0 0 0 0 0 [.reset], [], by decide⟩⟩

/-- The registers beside MEM_SIZE, and the first and the last reserved word offset. -/
theorem witness_RegistersReadZeroAfterReset :
    ∀ offset ∈ ([0x000#12, 0x020#12, 0x028#12, 0xFFC#12] : List RegOffset),
      offset.toNat % 4 = 0 ∧ offset ≠ 0x024#12 := by
  decide

/-- A pending command with bytes in MEM, and its completion. -/
theorem witness_StepKeepsInvariant :
    ∃ s t : State, Inv s ∧ s.busy = true ∧ s.mem.cells ≠ [] ∧ step s = .next t :=
  ⟨pending 0 ⟨2#4, 9, 1, 0, 0, 0, 0⟩ [0xFF#8] [], _, by decide, by decide, by decide, rfl⟩

theorem witness_StepNeverStops : ∃ s : State, Inv s ∧ s.engineTurn = true :=
  ⟨pending 0 ⟨3#4, 16, 1, 5, 0, 6, 1⟩ [] [], by decide⟩

theorem witness_MemoryHasThreeWriters :
    ∃ s t : State, step s = .next t ∧ t.mem ≠ s.mem :=
  ⟨withOperands 0 0 0 0 0 0 [.memWrite 8 0#32 1#32], _, rfl, by decide⟩

theorem witness_OvrIsSticky :
    (∃ s t : State, step s = .next t ∧ s.ovr = false ∧ t.ovr = true) ∧
    (∃ s t : State, step s = .next t ∧ s.ovr = true ∧ t.ovr = false) :=
  ⟨⟨pending 1 ⟨1#4, 8, 1, 0, 0, 8, 1⟩ [] [.run 2#32], _, rfl, rfl, rfl⟩,
    ⟨{ idle with ovr := true, inputs := [.regWrite 32 0x004#12 4#32] }, _, rfl, rfl, rfl⟩⟩

theorem witness_ErrKeepsItsCode :
    ∃ s t : State, Inv s ∧ step s = .next t ∧ t.err ≠ s.err :=
  ⟨withOperands 10 4 8 0 3 1 [.run 1#32], _, by decide, rfl, by decide⟩

/-- A new code, and the code of the command before once more. -/
theorem witness_ErrorsLeaveMemoryAlone :
    (∃ s t : State, Inv s ∧ step s = .next t ∧ t.err ≠ .none ∧ t.err ≠ s.err) ∧
    (∃ s t : State, Inv s ∧ step s = .next t ∧ t.err ≠ .none ∧ t.err = s.err ∧
      s.busy = false ∧ ∃ w rest, s.nextWritesCmd w rest) :=
  ⟨⟨withOperands 10 4 8 0 3 1 [.run 1#32], _, by decide, rfl, by decide, by decide⟩,
    ⟨{ withOperands 10 4 8 0 3 1 [.run 1#32] with err := .invalidRectangle, done := true },
      _, by decide, rfl, by decide, by decide, rfl, 1#32, [], .inr rfl⟩⟩

/-- A rejected command, and one that becomes pending. -/
theorem witness_IdleLatchIsUnobservable :
    (∃ s t : State, s.busy = false ∧ step s = .next t ∧ t.busy = false) ∧
    (∃ s t : State, s.busy = false ∧ step s = .next t ∧ t.busy = true) :=
  ⟨⟨withOperands 10 4 8 0 3 1 [.run 1#32], _, by decide, rfl, rfl⟩,
    ⟨withOperands 16 3 2 1 10 2 [.run 1#32], _, by decide, rfl, rfl⟩⟩

/-- The first and the last operand register; a completion that is due. -/
theorem witness_OperandWritesDoNotDisturbPending :
    (∃ s : State, s.busy = true ∧ s.delay ≠ 0 ∧ 0x008 ≤ (0x008#12 : RegOffset).toNat ∧
      (0x008#12 : RegOffset).toNat % 4 = 0 ∧ s.inputs = [.regWrite 32 0x008#12 9#32]) ∧
    (∃ s : State, s.busy = true ∧ s.delay ≠ 0 ∧ (0x01C#12 : RegOffset).toNat ≤ 0x01C ∧
      (0x01C#12 : RegOffset).toNat % 4 = 0 ∧ s.inputs = [.regWrite 32 0x01C#12 9#32]) ∧
    (∃ s t : State, s.engineTurn = true ∧ s.latch.op = opcodeOf .clear ∧
      exec .clear s = .next t) :=
  ⟨⟨pending 1 ⟨2#4, 9, 1, 0, 0, 0, 0⟩ [] [.regWrite 32 0x008#12 9#32], by decide⟩,
    ⟨pending 1 ⟨2#4, 9, 1, 0, 0, 0, 0⟩ [] [.regWrite 32 0x01C#12 9#32], by decide⟩,
    ⟨pending 0 ⟨2#4, 9, 1, 0, 0, 0, 0⟩ [] [], _, by decide, by decide, rfl⟩⟩

/-- Program 4: both outcomes, by the delay alone. -/
theorem witness_SecondCommandIssuedOrDropped :
    (∃ (s : State) (w : Word) (rest : List Input), Inv s ∧ s.busy = true ∧
      s.nextWritesCmd w rest ∧ decode w = .ok .clear ∧ s.delay = 0) ∧
    (∃ (s : State) (w : Word) (rest : List Input), Inv s ∧ s.busy = true ∧
      s.nextWritesCmd w rest ∧ decode w = .ok .clear ∧ s.delay ≠ 0) :=
  ⟨⟨pending 0 ⟨1#4, 8, 2, 0, 0, 8, 2⟩ [] [.regWrite 32 0x000#12 2#32], 2#32, [], by decide⟩,
    ⟨pending 1 ⟨1#4, 8, 2, 0, 0, 8, 2⟩ [] [.regWrite 32 0x000#12 2#32], 2#32, [], by decide⟩⟩

/-- A reset that comes only after the completion does not count. -/
theorem witness_PendingCommandCompletes :
    ∃ s : State, Inv s ∧ s.busy = true ∧ .reset ∉ s.inputs.take s.delay ∧ .reset ∈ s.inputs :=
  ⟨pending 2 ⟨1#4, 8, 2, 0, 0, 8, 2⟩ [] [.regWrite 32 0x008#12 3#32, .memRead 8 0#32, .reset],
    by decide⟩

theorem witness_RunReportsResultCode :
    ∃ (s : State) (w : Word) (rest : List Input), Inv s ∧ s.busy = false ∧
      s.inputs = .run w :: rest :=
  ⟨withOperands 16 3 2 1 10 2 [.run 1#32], 1#32, [], by decide⟩

theorem witness_RunRasterizeDrawsRectangle :
    ∃ (s : State) (w : Word) (rest : List Input), Inv s ∧ s.busy = false ∧
      s.inputs = .run w :: rest ∧ w.toNat % 16 = 1 ∧ s.canvasFits ∧ s.rectangleFits :=
  ⟨withOperands 16 3 2 1 10 2 [.run 0xFFFFFFF1#32], 0xFFFFFFF1#32, [], by decide⟩

/-- Nothing left, and a reset line still to come; a transaction still to come has not ended. -/
theorem witness_EndedProgramStaysEnded :
    (∃ s : State, s.ended ∧ s.inputs = []) ∧ (∃ s : State, s.ended ∧ s.inputs ≠ []) ∧
    ¬ (withOperands 0 0 0 0 0 0 [.reset, .poll]).ended :=
  ⟨⟨idle, by decide⟩, ⟨withOperands 0 0 0 0 0 0 [.reset], by decide⟩, by decide⟩

end Sys2Proof.Tests
end

section
/-!
PROOFS. The registers, STATUS and what every step keeps of them (`spec/10_state.md`): first what a
read and a write of each register do, then the step of HOST that performs an access, then what a
step leaves unchanged, and last the statements that these settle.
-/

namespace Sys2Proof.Proofs

open Sys2Proof Sys2Proof.Machine

/-! ### Bits and numbers -/

/-- A bit of a word as a digit of its number. -/
theorem getLsbD_eq_decide_toNat (v : Word) (k : Nat) :
    v.getLsbD k = decide (v.toNat / 2 ^ k % 2 = 1) :=
  Nat.testBit_eq_decide_div_mod_eq

theorem getLsbD_eq_of_toNat {v : Word} {k : Nat} {b : Bool}
    (h : v.toNat / 2 ^ k % 2 = b.toNat) : v.getLsbD k = b := by
  rw [getLsbD_eq_decide_toNat, h]
  cases b <;> rfl

/-- The write-1-to-clear rule of R13 in plain arithmetic. -/
theorem and_not_getLsbD (b : Bool) (v : Word) (k : Nat) :
    (b && !v.getLsbD k) = if v.toNat / 2 ^ k % 2 = 1 then false else b := by
  rw [getLsbD_eq_decide_toNat]
  split_ifs with h <;> simp [h]

/-! ### The table words -/

theorem decode_of_decodeTableWord {nbits w : Nat} {i : Instr}
    (h : decodeTableWord nbits w = some i) :
    decode (BitVec.ofNat 32 (w % 2 ^ nbits)) = .ok i := by
  unfold decodeTableWord at h
  cases hd : decode (BitVec.ofNat 32 (w % 2 ^ nbits)) with
  | ok j => simpa [hd] using h
  | error e => simp [hd] at h

/-! ### What each register reads as -/

section
variable (s : State)

@[simp] theorem regRead_cmd : regRead s 0x000#12 = 0#32 := rfl
@[simp] theorem regRead_status : regRead s 0x004#12 = s.statusWord := rfl
@[simp] theorem regRead_canvasW : regRead s 0x008#12 = zext32 s.canvasW := rfl
@[simp] theorem regRead_canvasH : regRead s 0x00C#12 = zext32 s.canvasH := rfl
@[simp] theorem regRead_rectX : regRead s 0x010#12 = zext32 s.rectX := rfl
@[simp] theorem regRead_rectY : regRead s 0x014#12 = zext32 s.rectY := rfl
@[simp] theorem regRead_rectW : regRead s 0x018#12 = zext32 s.rectW := rfl
@[simp] theorem regRead_rectH : regRead s 0x01C#12 = zext32 s.rectH := rfl
@[simp] theorem regRead_pitch :
    regRead s 0x020#12 = BitVec.ofNat 32 (pitchOf s.canvasW) := rfl
@[simp] theorem regRead_memSize : regRead s 0x024#12 = s.memSize := rfl

/-- PITCH fits its 14 bits, so the read loses nothing (R20). -/
theorem regRead_pitch_toNat : (regRead s 0x020#12).toNat = (s.canvasW.toNat + 7) / 8 := by
  have hle := (pitchOf_bounds s.canvasW).2
  rw [regRead_pitch, BitVec.toNat_ofNat, Nat.mod_eq_of_lt (by omega), pitchOf_eq]

/-- STATUS fits bits 7..0 (R12). -/
theorem statusWord_toNat_lt : s.statusWord.toNat < 256 := by
  have hb := s.busy.toNat_le
  have hd := s.done.toNat_le
  have ho := s.ovr.toNat_le
  have he := s.err.code.isLt
  rw [statusWord_toNat]
  omega

end

/-- A reserved offset is none of the registers (R10). -/
theorem ne_of_reserved {offset : RegOffset} (h : 0x028 ≤ offset.toNat) {k : Nat} (hk : k < 0x028) :
    offset ≠ BitVec.ofNat 12 k := by
  rintro rfl
  rw [BitVec.toNat_ofNat] at h
  omega

theorem regRead_reserved (s : State) {offset : RegOffset} (h : 0x028 ≤ offset.toNat) :
    regRead s offset = 0#32 := by
  simp [regRead, ne_of_reserved h]

/-! ### What a write to each register does -/

section
variable (s : State) (v : Word)

@[simp] theorem regWrite_canvasW :
    regWrite s 0x008#12 v = { s with canvasW := v.setWidth 16 } := rfl
@[simp] theorem regWrite_canvasH :
    regWrite s 0x00C#12 v = { s with canvasH := v.setWidth 16 } := rfl
@[simp] theorem regWrite_rectX :
    regWrite s 0x010#12 v = { s with rectX := v.setWidth 16 } := rfl
@[simp] theorem regWrite_rectY :
    regWrite s 0x014#12 v = { s with rectY := v.setWidth 16 } := rfl
@[simp] theorem regWrite_rectW :
    regWrite s 0x018#12 v = { s with rectW := v.setWidth 16 } := rfl
@[simp] theorem regWrite_rectH :
    regWrite s 0x01C#12 v = { s with rectH := v.setWidth 16 } := rfl
@[simp] theorem regWrite_pitch : regWrite s 0x020#12 v = s := rfl
@[simp] theorem regWrite_memSize : regWrite s 0x024#12 v = s := rfl

/-- A write to STATUS in plain arithmetic (R13). -/
theorem regWrite_status :
    regWrite s 0x004#12 v =
      { s with
        done := if v.toNat / 2 % 2 = 1 then false else s.done
        ovr := if v.toNat / 4 % 2 = 1 then false else s.ovr } :=
  calc regWrite s 0x004#12 v = s.writeStatus v := rfl
    _ = _ := by
      have hd := and_not_getLsbD s.done v 1
      have ho := and_not_getLsbD s.ovr v 2
      simp only [State.writeStatus, hd, ho, Nat.reducePow]

theorem regWrite_reserved {offset : RegOffset} (h : 0x028 ≤ offset.toNat) :
    regWrite s offset v = s := by
  simp [regWrite, ne_of_reserved h]

end

/-! ### The reset state -/

/-- R1: the size of MEM lies within its bounds. -/
theorem maskMemBytes_bounds : 1 ≤ Config.maskMemBytes ∧ Config.maskMemBytes ≤ 536870912 := by
  have hlt := Config.maskMemTop.isLt
  unfold Config.maskMemBytes
  omega

/-- After reset MEM_SIZE holds `MASK_MEM_BYTES` without loss (R21). -/
theorem reset_memBytes : State.reset.memBytes = Config.maskMemBytes := by
  have hle := maskMemBytes_bounds.2
  exact Nat.mod_eq_of_lt (by omega)

/-! ### The step that performs a register access -/

section
variable {s : State} {offset : RegOffset} {v : Word} {rest : List Input}

/-- A taken read in HOST's turn (R27). -/
theorem step_regRead (ht : s.engineTurn = false) (hi : s.inputs = .regRead 32 offset :: rest)
    (ha : offset.toNat % 4 = 0) :
    step s = .next (s.answered rest (.data32 (regRead s offset))) := by
  have htakes : regTakes 32 offset = true := by simp [regTakes, ha]
  rw [step_input ht hi, perform, regReadAccess, if_pos htakes, retire, hi]
  rfl

/-- A taken write in HOST's turn to a register other than CMD (R28). -/
theorem step_regWrite (ht : s.engineTurn = false)
    (hi : s.inputs = .regWrite 32 offset v :: rest) (ha : offset.toNat % 4 = 0)
    (hcmd : offset ≠ 0x000#12) :
    step s = .next ((regWrite s offset v).answered rest .written) := by
  have htakes : regTakes 32 offset = true := by simp [regTakes, ha]
  obtain ⟨-, -, -, -, -, -, -, hin, -⟩ := regWrite_frame s offset v
  rw [step_input ht hi, perform, regWriteAccess, if_pos htakes, if_neg hcmd, retire, hin, hi]
  rfl

/-- A CMD write in HOST's turn, alone or as the first half of `run` (R11, R48). -/
theorem step_nextWritesCmd (ht : s.engineTurn = false) (hw : s.nextWritesCmd v rest) :
    step s = .next (hostCommand (opField v) s) := by
  rcases hw with hi | hi
  · rw [step_input ht hi, perform_cmdWord rfl]
  · rw [step_input ht hi, perform_cmdWord rfl]

end

/-- Without an input the block waits. -/
theorem step_wait {s : State} (ht : s.engineTurn = false) (hi : s.inputs = []) :
    step s = .next (wait s) := by
  unfold step fetch
  simp [ht, hi]

/-! ### What a step leaves unchanged -/

/-- A CMD write changes neither MEM_SIZE nor MEM: the effect on MEM comes at the completion. -/
theorem hostCommand_frame (op : OpCode) (s : State) :
    (hostCommand op s).memSize = s.memSize ∧ (hostCommand op s).mem = s.mem := by
  rcases hostCommand_cases op s with ⟨-, h⟩ | ⟨-, h⟩
  · simp [h]
  · rcases issue_cases op s with ⟨-, hi⟩ | ⟨-, hi⟩ <;> simp [h, hi, State.issued]

theorem perform_memSize (input : Input) (s : State) :
    (perform input s).memSize = s.memSize := by
  rcases perform_cases input s with ⟨r, h⟩ | ⟨-, -, r, h⟩ | ⟨w, -, h⟩ | ⟨offset, v, -, -, -, h⟩ |
    ⟨width, a, v, -, -, h⟩ | ⟨-, h⟩
  · rw [h, retire_memSize]
  · rw [h, respond_memSize]
  · rw [h, (hostCommand_frame _ s).1]
  · rw [h, retire_memSize, (regWrite_frame s offset v).1]
  · rw [h, retire_memSize]
  · rw [h, resetEvent_memSize]

/-- No step changes MEM_SIZE (R21). -/
theorem step_memSize {s t : State} (h : step s = .next t) : t.memSize = s.memSize := by
  rcases step_cases h with ⟨-, i, -, rfl⟩ | ⟨-, -, rfl⟩ | ⟨-, input, rest, -, rfl⟩
  · rw [complete_memSize]
  · rw [wait_memSize]
  · exact perform_memSize input s

/-- An input that changes MEM is a write on the open memory port, or the reset (R24). -/
theorem perform_mem (input : Input) (s : State) :
    (perform input s).mem = s.mem ∨
    (s.busy = false ∧ ∃ width a v, input = .memWrite width a v) ∨ input = .reset := by
  rcases perform_cases input s with ⟨r, h⟩ | ⟨-, -, r, h⟩ | ⟨w, -, h⟩ | ⟨offset, v, -, -, -, h⟩ |
    ⟨width, a, v, hin, htakes, -⟩ | ⟨hin, -⟩
  · exact .inl (by rw [h, retire_mem])
  · exact .inl (by rw [h, respond_mem])
  · exact .inl (by rw [h, (hostCommand_frame _ s).2])
  · obtain ⟨-, -, -, -, hmem, -⟩ := regWrite_frame s offset v
    exact .inl (by rw [h, retire_mem, hmem])
  · exact .inr (.inl ⟨(memTakes_iff.mp htakes).1, width, a, v, hin⟩)
  · exact .inr (.inr hin)

/-! ### The latch of an idle block -/

/-- With BUSY = 0 a CMD write is an issue (R11). -/
theorem hostCommand_of_idle {s : State} (hb : s.busy = false) (op : OpCode) :
    hostCommand op s = issue op s :=
  if_neg (by simp [hb])

/-- With BUSY = 0 a read of `poll` is its last (R47). -/
theorem pollRead_of_idle {s : State} (hb : s.busy = false) :
    pollRead s = retire (.data32 s.statusWord) s :=
  if_neg (by simp [hb])

/-- Two states differ in nothing but the latch, and not even in that while a command is
pending. -/
def AgreeButIdleLatch (t t' : State) : Prop :=
  ∃ l' : Latch, t' = { t with latch := l' } ∧ (t.busy = true → l' = t.latch)

theorem AgreeButIdleLatch.refl (t : State) : AgreeButIdleLatch t t :=
  ⟨t.latch, rfl, fun _ => rfl⟩

theorem AgreeButIdleLatch.of_idle {t : State} (h : t.busy = false) (l : Latch) :
    AgreeButIdleLatch t { t with latch := l } :=
  ⟨l, rfl, fun hb => by simp [h] at hb⟩

section
variable {s : State} (l : Latch)

/-- Answering commutes with a change of the latch. -/
theorem retire_agree (hb : s.busy = false) (r : Response) :
    AgreeButIdleLatch (retire r s) (retire r { s with latch := l }) :=
  .of_idle (t := retire r s) hb l

theorem regWrite_withLatch (s : State) (offset : RegOffset) (v : Word) :
    regWrite { s with latch := l } offset v = { regWrite s offset v with latch := l } := by
  unfold regWrite
  split_ifs <;> rfl

/-- An issue fills the latch whole, so nothing of the old one is left (R50). -/
theorem hostCommand_withLatch (hb : s.busy = false) (op : OpCode) :
    hostCommand op { s with latch := l } = hostCommand op s :=
  calc hostCommand op { s with latch := l }
    _ = issue op { s with latch := l } := hostCommand_of_idle (s := { s with latch := l }) hb op
    _ = issue op s := rfl
    _ = hostCommand op s := (hostCommand_of_idle hb op).symm

theorem regReadAccess_agree (hb : s.busy = false) (width : Nat) (offset : RegOffset) :
    AgreeButIdleLatch (regReadAccess width offset s)
      (regReadAccess width offset { s with latch := l }) := by
  unfold regReadAccess
  split_ifs
  · exact retire_agree l hb (.data32 (regRead s offset))
  · exact retire_agree l hb .busError

theorem regWriteAccess_agree (hb : s.busy = false) (width : Nat) (offset : RegOffset)
    (v : Word) :
    AgreeButIdleLatch (regWriteAccess width offset v s)
      (regWriteAccess width offset v { s with latch := l }) := by
  unfold regWriteAccess
  split_ifs
  · rw [hostCommand_withLatch l hb]
    exact .refl _
  · obtain ⟨-, hbusy, -⟩ := regWrite_frame s offset v
    rw [regWrite_withLatch l s offset v]
    exact retire_agree l (hbusy.trans hb) .written
  · exact retire_agree l hb .busError

theorem memReadAccess_agree (hb : s.busy = false) (width : Nat) (a : MemAddr) :
    AgreeButIdleLatch (memReadAccess width a s)
      (memReadAccess width a { s with latch := l }) := by
  have htakes : memTakes { s with latch := l } width a = memTakes s width a := rfl
  simp only [memReadAccess, htakes]
  split_ifs
  · exact retire_agree l hb _
  · exact retire_agree l hb .busError

theorem memWriteAccess_agree (hb : s.busy = false) (width : Nat) (a : MemAddr) (v : Word) :
    AgreeButIdleLatch (memWriteAccess width a v s)
      (memWriteAccess width a v { s with latch := l }) := by
  have htakes : memTakes { s with latch := l } width a = memTakes s width a := rfl
  simp only [memWriteAccess, htakes]
  split_ifs
  · exact retire_agree (s := { s with mem := memStore s.mem width a v }) l hb .written
  · exact retire_agree l hb .busError

theorem pollRead_agree (hb : s.busy = false) :
    AgreeButIdleLatch (pollRead s) (pollRead { s with latch := l }) := by
  rw [pollRead_of_idle hb, pollRead_of_idle (s := { s with latch := l }) hb]
  exact retire_agree l hb (.data32 s.statusWord)

/-- Performing an input with BUSY = 0 reads no bit of the latch (R22). -/
theorem perform_agree (hb : s.busy = false) (input : Input) :
    AgreeButIdleLatch (perform input s) (perform input { s with latch := l }) := by
  cases input with
  | regRead width offset => exact regReadAccess_agree l hb width offset
  | regWrite width offset v => exact regWriteAccess_agree l hb width offset v
  | memRead width a => exact memReadAccess_agree l hb width a
  | memWrite width a v => exact memWriteAccess_agree l hb width a v
  | poll => exact pollRead_agree l hb
  | run w => exact regWriteAccess_agree l hb 32 0x000#12 w
  | reset => exact .refl (resetEvent s)

end

/-- A step of an idle block agrees with the step from any other latch. -/
theorem step_agree {s t : State} (l : Latch) (hb : s.busy = false) (h : step s = .next t) :
    ∃ t', step { s with latch := l } = .next t' ∧ AgreeButIdleLatch t t' := by
  have ht' : State.engineTurn { s with latch := l } = false := engineTurn_of_idle hb
  rcases step_cases h with ⟨ht, -⟩ | ⟨-, hi, rfl⟩ | ⟨-, input, rest, hi, rfl⟩
  · simp [engineTurn_of_idle hb] at ht
  · exact ⟨_, step_wait ht' hi, .of_idle (t := wait s) hb l⟩
  · exact ⟨_, step_input ht' hi, perform_agree l hb input⟩

/-! ### The statements -/

/-- Settles O25, from the value of STATUS as a sum of its fields. -/
theorem statusFieldsStandInPlace : Obligations.StatusFieldsStandInPlace := by
  refine ⟨fun s => ?_, rfl⟩
  have hsum := statusWord_toNat s
  have hb := s.busy.toNat_le
  have hd := s.done.toNat_le
  have ho := s.ovr.toNat_le
  have hlt := statusWord_toNat_lt s
  rw [regRead_status]
  refine ⟨getLsbD_eq_of_toNat ?_, getLsbD_eq_of_toNat ?_, getLsbD_eq_of_toNat ?_,
    getLsbD_eq_of_toNat ?_, BitVec.eq_of_toNat_eq ?_, BitVec.eq_of_toNat_eq ?_⟩
  · omega
  · omega
  · omega
  · rw [Bool.toNat_false]
    omega
  · have he := s.err.code.isLt
    rw [BitVec.extractLsb'_toNat, Nat.shiftRight_eq_div_pow]
    omega
  · rw [BitVec.extractLsb'_toNat, Nat.shiftRight_eq_div_pow, Nat.div_eq_of_lt hlt]
    rfl

/-- Settles O31: no step changes MEM_SIZE and a write to it is ignored. -/
theorem memSizeNeverChanges : Obligations.MemSizeNeverChanges := by
  refine ⟨fun s t h => ?_, regWrite_memSize, fun s v rest ht hi => ?_, reset_memBytes⟩
  · rw [regRead_memSize, regRead_memSize, step_memSize h]
  · rw [step_regWrite ht hi (by decide) (by decide), regWrite_memSize]

/-- Settles O43, by the cases of a step. -/
theorem memoryHasThreeWriters : Obligations.MemoryHasThreeWriters := by
  intro s t h hne
  rcases step_cases h with ⟨ht, -⟩ | ⟨-, -, rfl⟩ | ⟨-, input, rest, hi, rfl⟩
  · exact .inl ht
  · exact absurd (wait_mem s) hne
  · rcases perform_mem input s with hmem | ⟨hb, width, a, v, rfl⟩ | rfl
    · exact absurd hmem hne
    · exact .inr (.inl ⟨hb, width, a, v, rest, hi⟩)
    · exact .inr (.inr ⟨rest, hi⟩)

/-- Settles O47: with BUSY = 0 no operation reads the latch, and an issue replaces it whole. -/
theorem idleLatchIsUnobservable : Obligations.IdleLatchIsUnobservable := by
  intro s l hb t h
  obtain ⟨t', ht', l', rfl, hl'⟩ := step_agree l hb h
  exact ⟨l', ht', hl'⟩

/-- Settles O4: both sides are the CMD write in HOST's turn, the completion in the ENGINE's. -/
theorem stepRunsDecodedCommand : Obligations.StepRunsDecodedCommand := by
  refine ⟨fun s w rest i ht hw hd => ?_, fun s i ht hop => ?_⟩
  · rw [step_nextWritesCmd ht hw, exec_host i ht, decodeOp_ok hd]
  · rw [step_engine ht hop, exec_complete ht hop]

/-- Settles O9: the placed line is a CMD write of the word in HOST's turn. -/
theorem placedWordRunsNext : Obligations.PlacedWordRunsNext := by
  intro s w i h
  exact stepRunsDecodedCommand.1 _ _ s.inputs i (engineTurn_of_idle rfl) (.inl rfl)
    (decode_of_decodeTableWord h)

/-- Settles O24, register by register. -/
theorem registerReadValues : Obligations.RegisterReadValues := by
  intro s
  refine ⟨regRead_cmd s, ?_, ?_, ?_, ?_, ?_, ?_, ?_, regRead_pitch_toNat s, ?_⟩
  · rw [regRead_status, statusWord_toNat]
  · rw [regRead_canvasW, zext32_toNat]
  · rw [regRead_canvasH, zext32_toNat]
  · rw [regRead_rectX, zext32_toNat]
  · rw [regRead_rectY, zext32_toNat]
  · rw [regRead_rectW, zext32_toNat]
  · rw [regRead_rectH, zext32_toNat]
  · rw [regRead_memSize]

/-- Settles O27, from the rounded-up quotient that PITCH reads as. -/
theorem pitchIsLeastCover : Obligations.PitchIsLeastCover := by
  refine ⟨fun s => ?_, fun s v rest ht hi => ?_, rfl⟩
  · have hlt := s.canvasW.isLt
    rw [regRead_pitch_toNat]
    exact ⟨by omega, fun q hq => by omega, by omega, regWrite_pitch s⟩
  · rw [step_regWrite ht hi (by decide) (by decide), regWrite_pitch]

/-- Settles O28. -/
theorem reservedOffsetsAreInert : Obligations.ReservedOffsetsAreInert := by
  intro s offset v rest ht hres ha
  refine ⟨fun hi => ?_, fun hi => ?_⟩
  · rw [step_regRead ht hi ha, regRead_reserved s hres]
    rfl
  · rw [step_regWrite ht hi ha (ne_of_reserved hres (by decide)), regWrite_reserved s v hres]

/-- Settles O29. -/
theorem statusWriteClearsWrittenOnes : Obligations.StatusWriteClearsWrittenOnes := by
  intro s v rest ht hi
  rw [step_regWrite ht hi (by decide) (by decide), regWrite_status]
  rfl

/-- Settles O30, register by register; storing the low half is `BitVec.setWidth`. -/
theorem operandWriteStoresLowHalf : Obligations.OperandWriteStoresLowHalf := by
  intro s v rest ht
  rw [BitVec.ofNat_toNat]
  refine ⟨fun hi => ?_, fun hi => ?_, fun hi => ?_, fun hi => ?_, fun hi => ?_, fun hi => ?_⟩
  all_goals exact step_regWrite ht hi (by decide) (by decide)

/-- Settles O39: every register beside MEM_SIZE reads as the 0 that reset stores, and a reserved
offset as 0. -/
theorem registersReadZeroAfterReset : Obligations.RegistersReadZeroAfterReset := by
  intro offset _ hne
  rw [regRead, if_neg hne]
  split_ifs <;> rfl

/-- Settles O40. -/
theorem resetSatisfiesInvariant : Obligations.ResetSatisfiesInvariant := by
  have hsize : memSizeWellFormed State.reset.memBytes = true := by
    obtain ⟨hlo, hhi⟩ := maskMemBytes_bounds
    simp [reset_memBytes, memSizeWellFormed, hlo, hhi]
  have hinside : State.reset.mem.inside State.reset.memBytes := fun c hc => by cases hc
  have hsound : State.reset.pendingSound := fun hb => by cases hb
  exact ⟨hsize, State.reset_mem_wf, hinside, hsound⟩

end Sys2Proof.Proofs
end

section
/-!
PROOFS. The two ports (`spec/20_memory.md`): first what a word store leaves byte by byte, then the
step of HOST that performs an access which the port takes or refuses, and last the statements that
these settle.
-/

namespace Sys2Proof.Proofs

open Sys2Proof Sys2Proof.Machine

/-! ### The bytes of a stored word -/

section
variable (m : Memory) (a : Nat) (v : Word)

/-- Little-endian: byte `k` of the word is stored at `a + k` (R30). -/
theorem read_writeWord_byte {k : Nat} (hk : k < 4) :
    (m.writeWord a v).read (a + k) = v.extractLsb' (8 * k) 8 := by
  rw [Memory.read_writeWord]
  match k, hk with
  | 0, _ => simp
  | 1, _ => simp
  | 2, _ => simp
  | 3, _ => simp

theorem read_writeWord_outside {b : Nat} (hb : b < a ∨ a + 4 ≤ b) :
    (m.writeWord a v).read b = m.read b := by
  have h3 : a + 3 ≠ b := by omega
  have h2 : a + 2 ≠ b := by omega
  have h1 : a + 1 ≠ b := by omega
  have h0 : a ≠ b := by omega
  rw [Memory.read_writeWord, if_neg h3, if_neg h2, if_neg h1, if_neg h0]

/-- A byte of a word as a digit of its number. -/
theorem extractLsb'_byte_toNat (k : Nat) :
    (v.extractLsb' (8 * k) 8).toNat = v.toNat / 2 ^ (8 * k) % 256 := by
  rw [BitVec.extractLsb'_toNat, Nat.shiftRight_eq_div_pow]

end

/-! ### The step that performs an access -/

section
variable {s : State} {width : Nat} {rest : List Input}

/-- HOST's step for a line that only gets an answer and is used up by it (every line but
`run`). -/
theorem step_answered {input : Input} {r : Response} (ht : s.engineTurn = false)
    (hi : s.inputs = input :: rest) (hused : inputsAfter (input :: rest) = rest)
    (hr : perform input s = retire r s) : step s = .next (s.answered rest r) := by
  rw [step_input ht hi, hr, retire, hi, hused]
  rfl

variable {a : MemAddr} {v : Word}

/-- A taken read on the memory port with BUSY = 0 (R29, R30). -/
theorem step_memRead (htakes : memTakes s width a = true)
    (hi : s.inputs = .memRead width a :: rest) :
    step s = .next (s.answered rest (memData s.mem width a)) :=
  step_answered (engineTurn_of_idle (memTakes_iff.mp htakes).1) hi rfl (if_pos htakes)

/-- A taken write on the memory port with BUSY = 0 (R29, R30). -/
theorem step_memWrite (htakes : memTakes s width a = true)
    (hi : s.inputs = .memWrite width a v :: rest) :
    step s = .next { s.answered rest .written with mem := memStore s.mem width a v } := by
  have ht := engineTurn_of_idle (memTakes_iff.mp htakes).1
  rw [step_input ht hi, perform, memWriteAccess, if_pos htakes, retire, hi]
  rfl

/-- A refused access on the memory port in HOST's turn (R31, R32). -/
theorem step_memAccess_refused (ht : s.engineTurn = false) (hrefused : ¬ memTakes s width a = true)
    (hi : s.inputs = .memRead width a :: rest ∨ s.inputs = .memWrite width a v :: rest) :
    step s = .next (s.answered rest .busError) := by
  rcases hi with hi | hi
  · exact step_answered ht hi rfl (if_neg hrefused)
  · exact step_answered ht hi rfl (if_neg hrefused)

variable {offset : RegOffset}

/-- The register port takes aligned 32-bit accesses only (R27, R28). -/
theorem regTakes_iff : regTakes width offset = true ↔ width = 32 ∧ offset.toNat % 4 = 0 := by
  simp [regTakes]

/-- A refused access on the register port in HOST's turn, at offset 0 too (R27, R28). -/
theorem step_regAccess_refused (ht : s.engineTurn = false)
    (hrefused : ¬ regTakes width offset = true)
    (hi : s.inputs = .regRead width offset :: rest ∨ s.inputs = .regWrite width offset v :: rest) :
    step s = .next (s.answered rest .busError) := by
  rcases hi with hi | hi
  · exact step_answered ht hi rfl (if_neg hrefused)
  · exact step_answered ht hi rfl (if_neg hrefused)

end

/-! ### The statements -/

/-- Settles O32: the port takes the access, and the byte stored is the low 8 bits of the data. -/
theorem memoryByteAccess : Obligations.MemoryByteAccess := by
  intro s a v rest hb hin
  have htakes : memTakes s 8 a = true := memTakes_iff.mpr ⟨hb, .inl ⟨rfl, hin⟩⟩
  refine ⟨step_memRead htakes, fun hi => ⟨_, step_memWrite htakes hi, ?_, fun b hne => ?_⟩⟩
  · have hlow : v.extractLsb' 0 8 = BitVec.ofNat 8 v.toNat := rfl
    rw [memStore, if_pos rfl, Memory.read_write_same, hlow]
  · rw [memStore, if_pos rfl, Memory.read_write_other _ _ _ _ hne.symm]

/-- Settles O33: the word read and the word stored, byte by byte. -/
theorem memoryWordAccessIsLittleEndian : Obligations.MemoryWordAccessIsLittleEndian := by
  intro s a v rest hb ha hin
  have htakes : memTakes s 32 a = true := memTakes_iff.mpr ⟨hb, .inr ⟨rfl, ha, hin⟩⟩
  refine ⟨fun hi => ⟨_, step_memRead htakes hi, s.mem.readWord_toNat a.toNat⟩,
    fun hi => ⟨s.mem.writeWord a.toNat v, step_memWrite htakes hi, fun k hk => ?_, fun b hout => ?_⟩⟩
  · rw [read_writeWord_byte _ _ _ hk, extractLsb'_byte_toNat]
  · exact read_writeWord_outside _ _ _ hout

/-- Settles O23. -/
theorem registerReadHasNoSideEffect : Obligations.RegisterReadHasNoSideEffect :=
  fun _ _ _ => step_regRead

/-- Settles O34: each of R31's causes is one that the port does not take. -/
theorem badMemoryAccessGetsBusError : Obligations.BadMemoryAccessGetsBusError := by
  intro s width a v rest ht hbad
  refine step_memAccess_refused ht fun htakes => ?_
  obtain ⟨-, hgood⟩ := memTakes_iff.mp htakes
  unfold State.memBytes at hgood
  omega

/-- Settles O35: the port takes nothing while BUSY = 1. -/
theorem memoryPortIsClosedWhileBusy : Obligations.MemoryPortIsClosedWhileBusy := by
  intro s width a v rest hb hd
  refine step_memAccess_refused (engineTurn_of_delay hd) fun htakes => ?_
  have hidle := (memTakes_iff.mp htakes).1
  simp [hb] at hidle

/-- Settles O36: the port takes neither another width nor a misaligned offset. -/
theorem badRegisterAccessGetsBusError : Obligations.BadRegisterAccessGetsBusError := by
  intro s width offset v rest ht hbad
  refine step_regAccess_refused ht fun htakes => ?_
  obtain ⟨hwidth, halign⟩ := regTakes_iff.mp htakes
  exact hbad.elim (· hwidth) (· halign)

end Sys2Proof.Proofs
end

section
/-!
PROOFS. The encoding and the host's pseudo-operations (`spec/30_encoding.md`): first what the
decoder reads of a word, then the reads of `poll` and the ways a `run` ends, and last the statements
that these settle.
-/

namespace Sys2Proof.Proofs

open Sys2Proof Sys2Proof.Machine Sys2Proof.Laws

/-! ### The fields of a CMD word -/

/-- `OP = word & 0xF` as a number (R45). -/
theorem opField_toNat (w : Word) : (opField w).toNat = w.toNat % 16 := by
  rw [opField, BitVec.extractLsb'_toNat, Nat.shiftRight_zero]

theorem opField_eq_ofNat (w : Word) : opField w = BitVec.ofNat 4 (w.toNat % 16) := by
  rw [← opField_toNat, BitVec.ofNat_toNat, BitVec.setWidth_eq]

@[simp] theorem opField_encodeWith (hi : BitVec 28) (i : Instr) :
    opField (encodeWith hi i) = opcodeOf i :=
  BitVec.extractLsb'_append_eq_right

/-- A word is its 28 ignored bits above its OP (R43). -/
theorem ignoredBits_append_opField (w : Word) : w.extractLsb' 4 28 ++ opField w = w :=
  calc w.extractLsb' 4 28 ++ opField w = w.extractLsb' 0 32 :=
        BitVec.extractLsb'_append_extractLsb'_eq_extractLsb' rfl
    _ = w := BitVec.extractLsb'_eq_self

/-! ### The decoder -/

/-- A word decodes to a command exactly when its OP is that command's number. -/
theorem decode_ok_iff {w : Word} {i : Instr} : decode w = .ok i ↔ opField w = opcodeOf i := by
  refine ⟨decodeOp_ok, fun h => ?_⟩
  rw [decode, h, decodeOp_opcodeOf]

theorem decode_ok_iff_toNat {w : Word} {i : Instr} :
    decode w = .ok i ↔ w.toNat % 16 = (opcodeOf i).toNat := by
  rw [decode_ok_iff, ← opField_toNat, BitVec.toNat_inj]

/-- A word with no command's OP is refused with its OP (R46). -/
theorem decode_illegal {w : Word} (h : w.toNat % 16 = 0 ∨ 4 ≤ w.toNat % 16) :
    decode w = .error (.illegalOp (opField w)) := by
  cases hd : decode w with
  | error e => rw [(decodeOp_error hd).1]
  | ok i =>
    have hop := decode_ok_iff_toNat.mp hd
    cases i <;> simp only [opcodeOf, BitVec.toNat_ofNat] at hop <;> omega

/-- The OP of a command that passes validation is one of the three (R52). -/
theorem exists_opcodeOf_of_validate {l : Latch} {memBytes : Nat}
    (h : validate l memBytes = .none) : ∃ i, l.op = opcodeOf i := by
  obtain ⟨h1 | h2 | h3, -⟩ := validate_eq_none.mp h
  · exact ⟨.rasterize, h1⟩
  · exact ⟨.clear, h2⟩
  · exact ⟨.drawRect, h3⟩

/-! ### The reads of `poll` -/

section
variable {s : State} {rest : List Input}

/-- A read with BUSY = 1: the `poll` stays the next line (R47). -/
theorem step_poll_busy (ht : s.engineTurn = false) (hi : s.inputs = .poll :: rest)
    (hb : s.busy = true) : step s = .next (s.answered s.inputs (.data32 s.statusWord)) := by
  rw [step_input ht hi, perform, pollRead, if_pos hb]
  rfl

/-- A read with BUSY = 0: the `poll` is done (R47). -/
theorem step_poll_idle (hi : s.inputs = .poll :: rest) (hb : s.busy = false) :
    step s = .next (s.answered rest (.data32 s.statusWord)) :=
  step_answered (engineTurn_of_idle hb) hi rfl (pollRead_of_idle hb)

end

/-- `t` is the block of `s` after a `poll` that ended with a read of STATUS as `s` has it, with
`rest` the host's lines left; only the model's own fields differ. -/
def PollEnded (s : State) (rest : List Input) (t : State) : Prop :=
  ∃ (d : Nat) (earlier : List Response),
    t = { s with delay := d, inputs := rest, responses := .data32 s.statusWord :: earlier }

/-- The last value read is the STATUS word of the state that the `poll` leaves. -/
theorem PollEnded.responses {s t : State} {rest : List Input} (h : PollEnded s rest t) :
    ∃ earlier, t.responses = .data32 t.statusWord :: earlier := by
  obtain ⟨d, earlier, rfl⟩ := h
  exact ⟨earlier, rfl⟩

theorem PollEnded.frame {s t : State} {rest : List Input} (h : PollEnded s rest t) :
    t.inputs = rest ∧ t.busy = s.busy ∧ t.done = s.done ∧ t.err = s.err ∧ t.mem = s.mem := by
  obtain ⟨d, earlier, rfl⟩ := h
  exact ⟨rfl, rfl, rfl, rfl, rfl⟩

/-! ### A `poll` and a `run` to their end -/

section
variable {s : State} {rest : List Input}

theorem run_poll_idle (hi : s.inputs = .poll :: rest) (hb : s.busy = false) :
    ∃ t : State, core.run 1 s = .next t ∧ PollEnded s rest t :=
  ⟨_, run_next (step_poll_idle hi hb), _, _, rfl⟩

/-- A `poll` with a command pending ends after the completion of that command: each earlier read
brings the completion one step nearer (R47, R93). -/
theorem run_poll_pending {i : Instr} (hi : s.inputs = .poll :: rest) (hb : s.busy = true)
    (hop : s.latch.op = opcodeOf i) :
    ∃ (n : Nat) (t : State), core.run n s = .next t ∧
      PollEnded (complete (commandEffect i) s) rest t := by
  induction hd : s.delay generalizing s with
  | zero =>
    have hcomplete := step_engine (engineTurn_iff.mpr ⟨hb, hd⟩) hop
    obtain ⟨t, hrun, hend⟩ := run_poll_idle (s := complete (commandEffect i) s) hi rfl
    exact ⟨2, t, (run_next hcomplete).trans hrun, hend⟩
  | succ d ih =>
    have hread := step_poll_busy (engineTurn_of_delay (by omega)) hi hb
    have hnearer : (s.answered s.inputs (.data32 s.statusWord)).delay = d := by
      rw [State.answered, hd, Nat.add_sub_cancel]
    obtain ⟨n, t, hrun, hend⟩ :=
      ih (s := s.answered s.inputs (.data32 s.statusWord)) hi hb hop hnearer
    exact ⟨n + 1, t, (run_next hread).trans hrun, hend⟩

variable {w : Word}

/-- The first half of `run`: the issue of its word, which leaves the `poll` (R48). -/
theorem step_run_idle (hi : s.inputs = .run w :: rest) (hb : s.busy = false) :
    step s = .next (issue (opField w) s) := by
  rw [step_nextWritesCmd (engineTurn_of_idle hb) (.inr hi), hostCommand_of_idle hb]

theorem issued_inputs_run (op : OpCode) (hi : s.inputs = .run w :: rest) :
    (s.issued op).inputs = .poll :: rest := by
  rw [State.issued, hi]
  rfl

/-- A `run` of a word that validation refuses ends with its error completion (R53). -/
theorem run_rejected (hi : s.inputs = .run w :: rest) (hb : s.busy = false)
    (hv : validate (s.latched (opField w)) s.memBytes ≠ .none) :
    ∃ (n : Nat) (t : State), core.run n s = .next t ∧
      PollEnded (errorComplete (validate (s.latched (opField w)) s.memBytes)
        (s.issued (opField w))) rest t := by
  have hissue := step_run_idle hi hb
  rcases issue_cases (opField w) s with ⟨hnone, -⟩ | ⟨-, herror⟩
  · exact absurd hnone hv
  · rw [herror] at hissue
    obtain ⟨t, hrun, hend⟩ := run_poll_idle
      (s := errorComplete (validate (s.latched (opField w)) s.memBytes) (s.issued (opField w)))
      (issued_inputs_run (opField w) hi) hb
    exact ⟨2, t, (run_next hissue).trans hrun, hend⟩

/-- A `run` of a word that passes validation ends with the completion of its command (R55). -/
theorem run_accepted {i : Instr} (hi : s.inputs = .run w :: rest) (hb : s.busy = false)
    (hop : opField w = opcodeOf i) (hv : validate (s.latched (opField w)) s.memBytes = .none) :
    ∃ (n : Nat) (t : State), core.run n s = .next t ∧
      PollEnded (complete (commandEffect i) (accept (s.issued (opField w)))) rest t := by
  have hissue := step_run_idle hi hb
  rcases issue_cases (opField w) s with ⟨-, haccept⟩ | ⟨hne, -⟩
  · rw [haccept] at hissue
    obtain ⟨n, t, hrun, hend⟩ := run_poll_pending (s := accept (s.issued (opField w)))
      (issued_inputs_run (opField w) hi) rfl hop
    exact ⟨n + 1, t, (run_next hissue).trans hrun, hend⟩
  · exact absurd hv hne

/-- However a `run` ends, its `poll` ended with BUSY 0, DONE 1 and validation's code in ERR. -/
theorem run_reports (hi : s.inputs = .run w :: rest) (hb : s.busy = false) :
    ∃ (n : Nat) (t u : State), core.run n s = .next t ∧ PollEnded u rest t ∧
      u.busy = false ∧ u.done = true ∧ u.err = validate (s.latched (opField w)) s.memBytes := by
  by_cases hv : validate (s.latched (opField w)) s.memBytes = .none
  · obtain ⟨i, hop⟩ := exists_opcodeOf_of_validate hv
    obtain ⟨n, t, hrun, hend⟩ := run_accepted hi hb hop hv
    exact ⟨n, t, _, hrun, hend, rfl, rfl, hv.symm⟩
  · obtain ⟨n, t, hrun, hend⟩ := run_rejected hi hb hv
    exact ⟨n, t, _, hrun, hend, hb, rfl, rfl⟩

end

/-! ### The statements -/

/-- Settles O2: the decoder sees the OP that stands below the ignored bits, and a word is made of
these two fields. -/
theorem decodeEncodeAgree : Obligations.DecodeEncodeAgree := by
  refine ⟨fun i hi _ => decode_ok_iff.mpr (opField_encodeWith hi i), fun w i hd => ?_⟩
  refine ⟨w.extractLsb' 4 28, ?_⟩
  rw [encodeWith, ← decode_ok_iff.mp hd, ignoredBits_append_opField]

/-- Settles O51: the `run` ends, and the STATUS word it read last has its fields in place. -/
theorem runReportsResultCode : Obligations.RunReportsResultCode := by
  intro s w rest _ hb hi
  obtain ⟨n, t, u, hrun, hend, hbusy, hdone, herr⟩ := run_reports hi hb
  obtain ⟨earlier, hlast⟩ := hend.responses
  obtain ⟨hinputs, htbusy, htdone, hterr, -⟩ := hend.frame
  obtain ⟨hbit0, hbit1, -, -, hcode, -⟩ := statusFieldsStandInPlace.1 t
  rw [regRead_status] at hbit0 hbit1 hcode
  refine ⟨n, t, t.statusWord, earlier, hrun, hinputs, htbusy.trans hbusy, hlast, ?_, ?_, ?_⟩
  · rw [hbit0, htbusy, hbusy]
  · rw [hbit1, htdone, hdone]
  · rw [hcode, hterr, herr]
    rfl

/-- Settles O1, from the OP of the word as a number. -/
theorem decodeReadsOpFieldOnly : Obligations.DecodeReadsOpFieldOnly := by
  intro w
  refine ⟨decode_ok_iff_toNat, decode_ok_iff_toNat, decode_ok_iff_toNat, fun h => ?_⟩
  rw [decode_illegal h, opField_eq_ofNat]

/-- Settles O3, from the OP of each of the written words. -/
theorem tableWordsDecode : Obligations.TableWordsDecode :=
  ⟨decode_ok_iff.mpr rfl, decode_ok_iff.mpr rfl, decode_ok_iff.mpr rfl, decode_ok_iff.mpr rfl,
    decode_illegal (by decide), decode_illegal (by decide)⟩

/-- Settles O8. -/
theorem pollReadsUntilBusyIsZero : Obligations.PollReadsUntilBusyIsZero := by
  intro s rest ht hi
  rw [regRead_status]
  exact ⟨step_poll_busy ht hi, step_poll_idle hi⟩

end Sys2Proof.Proofs
end

section
/-!
PROOFS. The commands (`spec/40_commands.md`): first the bits that a span and a rectangle set and the
bytes that they list, then the memory effect of each command, then validation, issue and the
invariant, and last the statements that these settle.
-/

namespace Sys2Proof.Proofs

open Sys2Proof Sys2Proof.Machine Sys2Proof.Laws

/-! ### One bit after a memory operation -/

section
variable (m : Memory) {k : Nat}

/-- A bit after an OR update (R37). -/
theorem orByte_bit (b a : Nat) (v : Byte) :
    ((m.orByte b v).read a).getLsbD k = ((m.read a).getLsbD k || decide (b = a) && v.getLsbD k) := by
  rw [Memory.read_orByte]
  split_ifs with h <;> simp [h]

/-- A bit after a fill with ones. -/
theorem fill_ones_bit (hk : k < 8) (b n a : Nat) :
    ((m.fill b n 0xFF#8).read a).getLsbD k =
      ((m.read a).getLsbD k || decide (b ≤ a ∧ a < b + n)) := by
  have hone : (0xFF#8).getLsbD k = true := by
    interval_cases k <;> rfl
  rw [Memory.read_fill]
  split_ifs with h <;> simp [h, hone]

end

/-! ### The bits of a span -/

/-- Bit `k` of the byte at `a` is a pixel of the span `[max leftX 0, rightX)` of the row that
begins at `base` (R66). -/
abbrev InSpan (base : Nat) (leftX rightX : Int) (a k : Nat) : Prop :=
  base ≤ a ∧ max leftX 0 ≤ ((8 * (a - base) + k : Nat) : Int) ∧
    ((8 * (a - base) + k : Nat) : Int) < rightX

section
variable (base : Nat) (m : Memory) (a : Nat) {k : Nat}

/-- R64 and R65, bit by bit: the boundary masks and the interior bytes make up the span. -/
theorem drawSpanBytes_bit (hk : k < 8) {left right : Nat} (hlt : left < right) :
    ((drawSpanBytes base left right m).read a).getLsbD k =
      ((m.read a).getLsbD k || decide (InSpan base left right a k)) := by
  have hl : left % 8 < 8 := Nat.mod_lt _ (by decide)
  have hr : right % 8 < 8 := Nat.mod_lt _ (by decide)
  unfold drawSpanBytes
  simp only [byteIndex_eq, bitOffset_eq]
  split_ifs with hsingle haligned
  · rw [orByte_bit, singleMask_bit _ hl _ (by omega) hsingle.2 k hk, ← Bool.decide_and]
    congr 1
    rw [decide_eq_decide]
    omega
  · rw [orByte_bit, orByte_bit, fill_ones_bit m hk, leftMask_bit _ hl k hk,
      rightMask_bit _ hr k hk, Bool.or_assoc, Bool.or_assoc]
    simp only [← Bool.decide_and, ← Bool.decide_or]
    congr 1
    rw [decide_eq_decide]
    omega
  · rw [orByte_bit, fill_ones_bit m hk, leftMask_bit _ hl k hk, Bool.or_assoc]
    simp only [← Bool.decide_and, ← Bool.decide_or]
    congr 1
    rw [decide_eq_decide]
    omega

/-- A span sets exactly its pixels, after the left clamp, and nothing where it is empty (R61, R62,
R66). -/
theorem drawMaskedSpan_bit (hk : k < 8) (leftX rightX : Int) :
    ((drawMaskedSpan base leftX rightX m).read a).getLsbD k =
      ((m.read a).getLsbD k || decide (InSpan base leftX rightX a k)) := by
  unfold drawMaskedSpan
  dsimp only
  split_ifs with hempty
  · have hout : ¬ InSpan base leftX rightX a k := by omega
    simp [hout]
  · rw [drawSpanBytes_bit base m a hk (by omega)]
    congr 1
    rw [decide_eq_decide]
    omega

end

/-! ### The bits of the rows -/

/-- A span that ends within the row of `pitch` bytes lies in the bytes of that row (R68). -/
theorem InSpan.byte_lt {base pitch a k : Nat} {leftX rightX : Int}
    (h : InSpan base leftX rightX a k) (hright : rightX ≤ 8 * (pitch : Int)) : a < base + pitch := by
  omega

/-- The rows of a bitmap do not overlap. -/
theorem row_unique {pitch i r b : Nat} (hb : b < pitch) (hlo : i * pitch ≤ r * pitch + b)
    (hhi : r * pitch + b < i * pitch + pitch) : i = r := by
  have hir : i < r + 1 := by
    refine Nat.lt_of_mul_lt_mul_right (a := pitch) ?_
    rw [Nat.succ_mul]
    omega
  have hri : r < i + 1 := by
    refine Nat.lt_of_mul_lt_mul_right (a := pitch) ?_
    rw [Nat.succ_mul]
    omega
  omega

/-- A bit after the rows are drawn: its old value, or 1 where one of the spans has it. -/
theorem drawRows_bit {k : Nat} (hk : k < 8) (pitch : Nat) (leftX rightX : Int) (n r : Nat)
    (m : Memory) (a : Nat) :
    ((drawRows pitch leftX rightX r n m).read a).getLsbD k = true ↔
      (m.read a).getLsbD k = true ∨
      ∃ i, r ≤ i ∧ i < r + n ∧ InSpan (i * pitch) leftX rightX a k := by
  induction n generalizing r m with
  | zero =>
    have hnone : ¬ ∃ i, r ≤ i ∧ i < r + 0 ∧ InSpan (i * pitch) leftX rightX a k := by
      rintro ⟨i, hlo, hhi, -⟩
      omega
    simp only [drawRows, hnone, or_false]
  | succ n ih =>
    rw [drawRows, ih, drawMaskedSpan_bit _ _ _ hk, Bool.or_eq_true, decide_eq_true_iff, or_assoc]
    refine or_congr_right ⟨?_, ?_⟩
    · rintro (hspan | ⟨i, hlo, hhi, hspan⟩)
      · exact ⟨r, le_refl r, by omega, hspan⟩
      · exact ⟨i, by omega, by omega, hspan⟩
    · rintro ⟨i, hlo, hhi, hspan⟩
      rcases Nat.eq_or_lt_of_le hlo with rfl | hlater
      · exact .inl hspan
      · exact .inr ⟨i, hlater, by omega, hspan⟩

/-! ### The rectangle in its canvas -/

section
variable {l : Latch} (m : Memory)

/-- The right end of a rectangle inside the canvas lies within the pitch (R33, R74). -/
theorem rightX_le_pitch (hright : l.rightX ≤ (l.cw.toNat : Int)) :
    l.rightX ≤ 8 * (l.pitch : Int) := by
  have hcover := (pitchOf_bounds l.cw).1
  rw [Latch.pitch]
  omega

/-- Drawing the rectangle ORs its pixels into the rows of the canvas. -/
theorem drawRectangle_pixel (hright : l.rightX ≤ (l.cw.toNat : Int)) (r : Nat) {p : Nat}
    (hp : p < 8 * l.pitch) :
    (drawRectangle l m).pixel l.pitch r p = (m.pixel l.pitch r p || l.covers r p) := by
  have hk : p % 8 < 8 := by omega
  have hb : p / 8 < l.pitch := by omega
  rw [Bool.eq_iff_iff, Bool.or_eq_true, Memory.pixel, Memory.pixel, drawRectangle,
    drawRows_bit hk, Latch.covers, decide_eq_true_iff, Latch.bottom]
  refine or_congr_right ⟨?_, ?_⟩
  · rintro ⟨i, hlo, hhi, hspan⟩
    obtain rfl := row_unique hb hspan.1 (hspan.byte_lt (rightX_le_pitch hright))
    exact ⟨hlo, hhi, by omega, by omega⟩
  · rintro ⟨hlo, hhi, hleft, hlt⟩
    exact ⟨r, hlo, hhi, by omega, by omega, by omega⟩

/-- Drawing a rectangle inside the canvas keeps every byte outside it (R36). -/
theorem drawRectangle_read_outside (hright : l.rightX ≤ (l.cw.toNat : Int))
    (hbottom : l.bottom ≤ l.ch.toNat) {a : Nat} (ha : l.canvasBytes ≤ a) :
    (drawRectangle l m).read a = m.read a := by
  refine BitVec.eq_of_getLsbD_eq fun k hk => ?_
  rw [Bool.eq_iff_iff, drawRectangle, drawRows_bit hk]
  refine or_iff_left ?_
  rintro ⟨i, -, hhi, hspan⟩
  have hbyte := hspan.byte_lt (rightX_le_pitch hright)
  have hrows : (i + 1) * l.pitch ≤ l.canvasBytes := by
    rw [Latch.canvasBytes, Nat.mul_comm]
    exact Nat.mul_le_mul_left _ (le_trans hhi hbottom)
  rw [Nat.succ_mul] at hrows
  omega

/-- The canvas is zeroed and nothing else (R57). -/
theorem read_zeroCanvas (l : Latch) (a : Nat) :
    (zeroCanvas l m).read a = if a < l.canvasBytes then 0x00#8 else m.read a := by
  rw [zeroCanvas, Memory.read_fill]
  simp only [Nat.zero_le, true_and, Nat.zero_add]

/-- A byte of the canvas, from its row and its place in the row. -/
theorem canvas_byte_lt {r b : Nat} (hr : r < l.ch.toNat) (hb : b < l.pitch) :
    r * l.pitch + b < l.canvasBytes := by
  have hrows : (r + 1) * l.pitch ≤ l.canvasBytes := by
    rw [Latch.canvasBytes, Nat.mul_comm]
    exact Nat.mul_le_mul_left _ hr
  rw [Nat.succ_mul] at hrows
  omega

theorem zeroCanvas_pixel {r p : Nat} (hr : r < l.ch.toNat) (hp : p < 8 * l.pitch) :
    (zeroCanvas l m).pixel l.pitch r p = false := by
  rw [Memory.pixel, read_zeroCanvas, if_pos (canvas_byte_lt hr (by omega)), BitVec.getLsbD_zero]

/-- RASTERIZE leaves exactly the pixels of its rectangle in the canvas (R56). -/
theorem rasterizeEffect_pixel (hright : l.rightX ≤ (l.cw.toNat : Int)) {r p : Nat}
    (hr : r < l.ch.toNat) (hp : p < 8 * l.pitch) :
    (rasterizeEffect l m).pixel l.pitch r p = l.covers r p := by
  rw [rasterizeEffect, drawRectangle_pixel _ hright r hp, zeroCanvas_pixel m hr hp, Bool.false_or]

theorem rasterizeEffect_read_outside (hright : l.rightX ≤ (l.cw.toNat : Int))
    (hbottom : l.bottom ≤ l.ch.toNat) {a : Nat} (ha : l.canvasBytes ≤ a) :
    (rasterizeEffect l m).read a = m.read a := by
  rw [rasterizeEffect, drawRectangle_read_outside _ hright hbottom ha, read_zeroCanvas,
    if_neg (by omega)]

end

/-! ### The bytes that an effect lists -/

section
variable {m : Memory} {memBytes : Nat}

/-- The span procedure lists only bytes of its row (R68). -/
theorem sound_drawSpanBytes (h : m.sound memBytes) {base pitch left right : Nat}
    (hlt : left < right) (hright : right ≤ 8 * pitch) (hrow : base + pitch ≤ memBytes) :
    (drawSpanBytes base left right m).sound memBytes := by
  have hleft : byteIndex left < pitch := by
    rw [byteIndex_eq]
    omega
  have hend : byteIndex right ≤ pitch := by
    rw [byteIndex_eq]
    omega
  have hlast : bitOffset right ≠ 0 → byteIndex right < pitch := by
    rw [byteIndex_eq, bitOffset_eq]
    omega
  have hfill := Memory.sound_fill (a := base + (byteIndex left + 1))
    (n := byteIndex right - (byteIndex left + 1)) h 0xFF#8 (by omega)
  have hleftDone := Memory.sound_orByte (a := base + byteIndex left) hfill
    (leftMask (bitOffset left)) (by omega)
  unfold drawSpanBytes
  dsimp only
  split_ifs with hsingle haligned
  · exact Memory.sound_orByte h _ (by omega)
  · have hin := hlast haligned
    exact Memory.sound_orByte hleftDone _ (by omega)
  · exact hleftDone

theorem sound_drawMaskedSpan (h : m.sound memBytes) {base pitch : Nat} (leftX : Int) {rightX : Int}
    (hright : rightX ≤ 8 * (pitch : Int)) (hrow : base + pitch ≤ memBytes) :
    (drawMaskedSpan base leftX rightX m).sound memBytes := by
  unfold drawMaskedSpan
  dsimp only
  split_ifs with hempty
  · exact h
  · exact sound_drawSpanBytes h (by omega) (by omega) hrow

theorem sound_drawRows (h : m.sound memBytes) {pitch r n : Nat} (leftX : Int) {rightX : Int}
    (hright : rightX ≤ 8 * (pitch : Int)) (hrows : (r + n) * pitch ≤ memBytes) :
    (drawRows pitch leftX rightX r n m).sound memBytes := by
  induction n generalizing r m with
  | zero => exact h
  | succ n ih =>
    have hrow : r * pitch + pitch ≤ memBytes :=
      calc r * pitch + pitch = (r + 1) * pitch := (Nat.succ_mul r pitch).symm
        _ ≤ (r + (n + 1)) * pitch := Nat.mul_le_mul_right _ (by omega)
        _ ≤ memBytes := hrows
    refine ih (sound_drawMaskedSpan h leftX hright hrow) ?_
    rwa [Nat.add_right_comm, Nat.add_assoc]

variable {l : Latch}

theorem sound_zeroCanvas (h : m.sound memBytes) (hfits : l.canvasBytes ≤ memBytes) :
    (zeroCanvas l m).sound memBytes :=
  Memory.sound_fill h _ (.inr (by rwa [Nat.zero_add]))

theorem sound_drawRectangle (h : m.sound memBytes) (hfits : l.canvasBytes ≤ memBytes)
    (hright : l.rightX ≤ (l.cw.toNat : Int)) (hbottom : l.bottom ≤ l.ch.toNat) :
    (drawRectangle l m).sound memBytes := by
  refine sound_drawRows h _ (rightX_le_pitch hright) ?_
  calc (l.y.toNat + l.h.toNat) * l.pitch ≤ l.ch.toNat * l.pitch := Nat.mul_le_mul_right _ hbottom
    _ = l.canvasBytes := Nat.mul_comm _ _
    _ ≤ memBytes := hfits

/-- The effect of a command that passed validation stays inside MEM (R36, R55). -/
theorem sound_commandEffect {i : Instr} (h : m.sound memBytes) (hop : l.op = opcodeOf i)
    (hvalid : validate l memBytes = .none) : (commandEffect i l m).sound memBytes := by
  obtain ⟨-, hfits, hrect⟩ := validate_eq_none.mp hvalid
  cases i with
  | rasterize =>
    obtain ⟨-, hbottom, hright⟩ := hrect (.inl hop)
    exact sound_drawRectangle (sound_zeroCanvas h hfits) hfits hright hbottom
  | clear => exact sound_zeroCanvas h hfits
  | drawRect =>
    obtain ⟨-, hbottom, hright⟩ := hrect (.inr hop)
    exact sound_drawRectangle h hfits hright hbottom

/-- A write that the memory port takes lists only bytes of MEM (R29 to R31). -/
theorem sound_memStore {s : State} {width : Nat} {a : MemAddr} (h : s.mem.sound s.memBytes)
    (htakes : memTakes s width a = true) (v : Word) :
    (memStore s.mem width a v).sound s.memBytes := by
  obtain ⟨-, ⟨rfl, hin⟩ | ⟨rfl, -, hin⟩⟩ := memTakes_iff.mp htakes
  · exact Memory.sound_write h _ hin
  · refine Memory.sound_write (Memory.sound_write (Memory.sound_write (Memory.sound_write h _ ?_)
      _ ?_) _ ?_) _ ?_
    all_goals omega

end

/-! ### Validation -/

/-- Validation in plain numbers: each result with the causes that lead to it (R52). -/
theorem validate_cases (l : Latch) (memBytes : Nat) :
    (validate l memBytes = .illegalCommand ∧ (l.op.toNat = 0 ∨ 4 ≤ l.op.toNat)) ∨
    (validate l memBytes = .invalidInputSize ∧ (1 ≤ l.op.toNat ∧ l.op.toNat ≤ 3) ∧
      memBytes < l.canvasBytes) ∨
    (validate l memBytes = .invalidRectangle ∧ (l.op.toNat = 1 ∨ l.op.toNat = 3) ∧
      l.canvasBytes ≤ memBytes ∧
      (l.h.toNat = 0 ∨ l.ch.toNat < l.bottom ∨ (l.cw.toNat : Int) < l.rightX)) ∨
    (validate l memBytes = .none ∧ (1 ≤ l.op.toNat ∧ l.op.toNat ≤ 3) ∧
      l.canvasBytes ≤ memBytes ∧
      (l.op.toNat = 2 ∨
        l.h.toNat ≠ 0 ∧ l.bottom ≤ l.ch.toNat ∧ l.rightX ≤ (l.cw.toNat : Int))) := by
  have hop : ∀ k : OpCode, l.op = k ↔ l.op.toNat = k.toNat := fun k => BitVec.toNat_inj.symm
  unfold validate
  simp only [ne_eq, hop, BitVec.toNat_ofNat]
  split_ifs with hillegal hlarge hrect hrows hbottom hright
  · exact .inl ⟨rfl, by omega⟩
  · exact .inr (.inl ⟨rfl, by omega, hlarge⟩)
  · exact .inr (.inr (.inl ⟨rfl, by omega, by omega, .inl hrows⟩))
  · exact .inr (.inr (.inl ⟨rfl, by omega, by omega, .inr (.inl hbottom)⟩))
  · exact .inr (.inr (.inl ⟨rfl, by omega, by omega, .inr (.inr hright)⟩))
  · exact .inr (.inr (.inr ⟨rfl, by omega, by omega, .inr ⟨hrows, by omega, by omega⟩⟩))
  · exact .inr (.inr (.inr ⟨rfl, by omega, by omega, .inl (by omega)⟩))

/-- CLEAR is not one of the two commands whose rectangle is checked (R52). -/
theorem clear_draws_no_rectangle :
    ¬ (opcodeOf .clear = 0x1#4 ∨ opcodeOf .clear = 0x3#4) := by
  decide

/-- What `rectangleFits` says, of the operands that an issue latches (R50, R74). -/
theorem latched_rectangle {s : State} (h : s.rectangleFits) (op : OpCode) :
    (s.latched op).h.toNat ≠ 0 ∧ (s.latched op).bottom ≤ (s.latched op).ch.toNat ∧
      (s.latched op).rightX ≤ ((s.latched op).cw.toNat : Int) := by
  rw [Latch.rightX_eq]
  exact h

/-- The operand registers pass validation for a command of either kind (R52). -/
theorem validate_latched {s : State} (i : Instr) (hfits : s.canvasFits)
    (hrect : i = .clear ∨ s.rectangleFits) :
    validate (s.latched (opcodeOf i)) s.memBytes = .none := by
  refine validate_eq_none.mpr ⟨?_, hfits, fun hop => ?_⟩
  · cases i with
    | rasterize => exact .inl rfl
    | clear => exact .inr (.inl rfl)
    | drawRect => exact .inr (.inr rfl)
  · rcases hrect with rfl | hrect
    · exact absurd hop clear_draws_no_rectangle
    · exact latched_rectangle hrect _

/-! ### The two steps of a command -/

/-- The issue of a command that passes validation is its acceptance (R54). -/
theorem exec_accept {s : State} (i : Instr) (hb : s.busy = false)
    (hvalid : validate (s.latched (opcodeOf i)) s.memBytes = .none) :
    exec i s = .next (accept (s.issued (opcodeOf i))) := by
  rw [exec_host i (engineTurn_of_idle hb), hostCommand_of_idle hb]
  rcases issue_cases (opcodeOf i) s with ⟨-, haccept⟩ | ⟨hne, -⟩
  · rw [haccept]
  · exact absurd hvalid hne

/-- A CMD write with BUSY = 1 is lost (R51). -/
theorem hostCommand_of_busy {s : State} (hb : s.busy = true) (op : OpCode) :
    hostCommand op s = overrun s :=
  if_pos hb

/-! ### The invariant -/

section
variable {s t : State}

theorem memBytes_congr (h : t.memSize = s.memSize) : t.memBytes = s.memBytes :=
  congrArg BitVec.toNat h

/-- The invariant of an idle block is about its memory alone. -/
theorem inv_of_idle (h : Inv s) (hsize : t.memSize = s.memSize)
    (hmem : t.mem.sound s.memBytes) (hb : t.busy = false) : Inv t := by
  obtain ⟨hwell, -⟩ := h
  obtain ⟨hwf, hinside⟩ := hmem
  unfold Machine.Inv
  rw [memBytes_congr hsize]
  exact ⟨hwell, hwf, hinside, fun hbusy => by simp [hb] at hbusy⟩

/-- The invariant reads none of the operand registers, OVR and the model's own fields, and clearing
DONE keeps it. -/
theorem inv_of_frame (h : Inv s) (hsize : t.memSize = s.memSize) (hmem : t.mem = s.mem)
    (hbusy : t.busy = s.busy) (hlatch : t.latch = s.latch) (herr : t.err = s.err)
    (hdone : t.done = s.done ∨ t.done = false) : Inv t := by
  obtain ⟨hwell, hwf, hinside, hpending⟩ := h
  unfold Machine.Inv State.pendingSound
  rw [memBytes_congr hsize, hmem, hbusy, hlatch, herr]
  refine ⟨hwell, hwf, hinside, fun hb => ?_⟩
  obtain ⟨hvalid, hdone0, herr0⟩ := hpending hb
  exact ⟨hvalid, hdone.elim (·.trans hdone0) id, herr0⟩

/-- The memory half of the invariant (R24). -/
theorem sound_of_inv (h : Inv s) : s.mem.sound s.memBytes := by
  obtain ⟨-, hwf, hinside, -⟩ := h
  exact ⟨hwf, hinside⟩

/-- A pending command is one that passed validation (R54). -/
theorem validate_of_inv (h : Inv s) (hb : s.busy = true) :
    validate s.latch s.memBytes = .none := by
  obtain ⟨-, -, -, hpending⟩ := h
  exact (hpending hb).1

/-- The completion of a command that passed validation keeps the invariant (R55). -/
theorem inv_complete {i : Instr} (h : Inv s) (hb : s.busy = true) (hop : s.latch.op = opcodeOf i) :
    Inv (complete (commandEffect i) s) :=
  inv_of_idle h rfl (sound_commandEffect (sound_of_inv h) hop (validate_of_inv h hb)) rfl

/-- Acceptance makes pending what passed validation, with DONE and ERR 0 (R50, R54). -/
theorem inv_accept (h : Inv s) {op : OpCode} (hvalid : validate (s.latched op) s.memBytes = .none) :
    Inv (accept (s.issued op)) := by
  obtain ⟨hwell, hwf, hinside, -⟩ := h
  exact ⟨hwell, hwf, hinside, fun _ => ⟨hvalid, rfl, rfl⟩⟩

theorem inv_hostCommand (h : Inv s) (op : OpCode) : Inv (hostCommand op s) := by
  rcases hostCommand_cases op s with ⟨-, hoverrun⟩ | ⟨hb, hissue⟩
  · rw [hoverrun]
    exact inv_of_frame h rfl rfl rfl rfl rfl (.inl rfl)
  · rw [hissue]
    rcases issue_cases op s with ⟨hvalid, haccept⟩ | ⟨-, herror⟩
    · rw [haccept]
      exact inv_accept h hvalid
    · have hsound := sound_of_inv h
      rw [herror]
      exact inv_of_idle h rfl hsound hb

theorem inv_perform (h : Inv s) (input : Input) : Inv (perform input s) := by
  rcases perform_cases input s with ⟨r, hp⟩ | ⟨-, -, r, hp⟩ | ⟨w, -, hp⟩ | ⟨offset, v, -, -, -, hp⟩ |
    ⟨width, a, v, -, htakes, hp⟩ | ⟨-, hp⟩
  all_goals rw [hp]
  · exact inv_of_frame h rfl rfl rfl rfl rfl (.inl rfl)
  · exact inv_of_frame h rfl rfl rfl rfl rfl (.inl rfl)
  · exact inv_hostCommand h _
  · obtain ⟨hsize, hbusy, herr, hlatch, hmem, -, -, -, -, hdone⟩ := regWrite_frame s offset v
    exact inv_of_frame h hsize hmem hbusy hlatch herr hdone
  · exact inv_of_idle h rfl (sound_memStore (sound_of_inv h) htakes v) (memTakes_iff.mp htakes).1
  · have hsound : s.mem.afterReset.sound s.memBytes :=
      ⟨Memory.wf_afterReset s.mem, fun c hc => by cases hc⟩
    exact inv_of_idle h rfl hsound rfl

end

/-! ### The statements -/

/-- Settles O41, by the cases of a step. -/
theorem stepKeepsInvariant : Obligations.StepKeepsInvariant := by
  intro s t h hstep
  rcases step_cases hstep with ⟨ht, i, hop, rfl⟩ | ⟨-, -, rfl⟩ | ⟨-, input, rest, -, rfl⟩
  · exact inv_complete h (engineTurn_iff.mp ht).1 hop
  · exact inv_of_frame h rfl rfl rfl rfl rfl (.inl rfl)
  · exact inv_perform h input

/-- Settles O10: validation passes, so the issue ends in acceptance. -/
theorem validCommandBecomesPending : Obligations.ValidCommandBecomesPending := by
  intro s hb hfits
  exact ⟨fun hrect => exec_accept .rasterize hb (validate_latched _ hfits (.inr hrect)),
    exec_accept .clear hb (validate_latched _ hfits (.inl rfl)),
    fun hrect => exec_accept .drawRect hb (validate_latched _ hfits (.inr hrect))⟩

/-- Settles O13: the causes of the four results exclude each other. -/
theorem validateReportsFirstCause : Obligations.ValidateReportsFirstCause := by
  intro l memBytes
  have hcases := validate_cases l memBytes
  rw [Latch.canvasBytes_eq, Latch.rightX_eq, Latch.bottom] at hcases
  rcases hcases with ⟨hv, hcause⟩ | ⟨hv, hcause⟩ | ⟨hv, hcause⟩ | ⟨hv, hcause⟩
  all_goals
    rw [hv]
    simp only [reduceCtorEq, true_iff, false_iff]
    omega

/-- Settles O14: the completion of a validated RASTERIZE. -/
theorem rasterizeCompletionDrawsRectangle : Obligations.RasterizeCompletionDrawsRectangle := by
  intro s hb hd hop hvalid
  obtain ⟨-, -, hrect⟩ := validate_eq_none.mp hvalid
  obtain ⟨-, hbottom, hright⟩ := hrect (.inl hop)
  exact ⟨rasterizeEffect s.latch s.mem, exec_complete (engineTurn_iff.mpr ⟨hb, hd⟩) hop,
    fun r p => rasterizeEffect_pixel s.mem hright,
    fun a => rasterizeEffect_read_outside s.mem hright hbottom⟩

/-- Settles O15: the completion of CLEAR is a fill of the canvas with zeros. -/
theorem clearCompletionZeroesCanvas : Obligations.ClearCompletionZeroesCanvas := by
  intro s hb hd hop
  refine ⟨clearEffect s.latch s.mem, exec_complete (engineTurn_iff.mpr ⟨hb, hd⟩) hop,
    fun a ha => ?_, fun a ha => ?_⟩
  · rw [clearEffect, read_zeroCanvas, Latch.canvasBytes_eq, if_pos ha]
  · rw [clearEffect, read_zeroCanvas, Latch.canvasBytes_eq, if_neg (Nat.not_lt.mpr ha)]

/-- Settles O16: the completion of a validated DRAW_RECT. -/
theorem drawRectCompletionOrsRectangle : Obligations.DrawRectCompletionOrsRectangle := by
  intro s hb hd hop hvalid
  obtain ⟨-, -, hrect⟩ := validate_eq_none.mp hvalid
  obtain ⟨-, hbottom, hright⟩ := hrect (.inr hop)
  exact ⟨drawRectEffect s.latch s.mem, exec_complete (engineTurn_iff.mpr ⟨hb, hd⟩) hop,
    fun r p _ => drawRectangle_pixel s.mem hright r,
    fun a => drawRectangle_read_outside s.mem hright hbottom⟩

/-- Settles O42: the ENGINE's turn finds a command pending that passed validation, and every other
step is the performing of an input or waiting. -/
theorem stepNeverStops : Obligations.StepNeverStops := by
  intro s h
  cases ht : s.engineTurn with
  | true =>
    obtain ⟨i, hop⟩ := exists_opcodeOf_of_validate (validate_of_inv h (engineTurn_iff.mp ht).1)
    exact ⟨_, step_engine ht hop⟩
  | false =>
    cases hi : s.inputs with
    | nil => exact ⟨_, step_wait ht hi⟩
    | cons input rest => exact ⟨_, step_input ht hi⟩

/-- Settles O52: the `run` is accepted, its `poll` ends after the completion, and the completion
drew the rectangle of the operand registers. -/
theorem runRasterizeDrawsRectangle : Obligations.RunRasterizeDrawsRectangle := by
  intro s w rest _ hb hi hw hfits hrectangle
  have hop : opField w = opcodeOf .rasterize := decode_ok_iff.mp (decode_ok_iff_toNat.mpr hw)
  have hvalid : validate (s.latched (opField w)) s.memBytes = .none := by
    rw [hop]
    exact validate_latched .rasterize hfits (.inr hrectangle)
  obtain ⟨n, t, hrun, hend⟩ := run_accepted hi hb hop hvalid
  obtain ⟨hinputs, hbusy, -, herr, hmem⟩ := hend.frame
  obtain ⟨-, hbottom, hright⟩ := latched_rectangle hrectangle (opField w)
  refine ⟨n, t, hrun, hinputs, hbusy, herr, fun r p hr hp => ?_, fun a ha => ?_⟩
  · have hpixel := rasterizeEffect_pixel s.mem hright hr hp
    rw [Latch.covers, Latch.leftX, sval_eq_toInt, Latch.rightX_eq] at hpixel
    rw [hmem]
    exact (Bool.eq_iff_iff.mp hpixel).trans decide_eq_true_iff
  · rw [hmem]
    exact rasterizeEffect_read_outside s.mem hright hbottom ha

/-- Settles O6. -/
theorem cmdWriteWhileBusyOnlySetsOvr : Obligations.CmdWriteWhileBusyOnlySetsOvr := by
  intro s w rest hb hd hw
  rw [step_nextWritesCmd (engineTurn_of_delay hd) hw, hostCommand_of_busy hb]
  rfl

/-- Settles O17: no effect reads OP, so RASTERIZE's is the composition of the other two; a rectangle
of no rows fails RASTERIZE and passes CLEAR. -/
theorem rasterizeIsClearThenDrawRect : Obligations.RasterizeIsClearThenDrawRect := by
  refine ⟨fun l memBytes hvalid => ?_, ⟨0#4, 8, 1, 0, 0, 8, 0⟩, 64, by decide, by decide⟩
  obtain ⟨-, hfits, hrect⟩ := validate_eq_none.mp hvalid
  have hinside := hrect (.inl rfl)
  refine ⟨validate_eq_none.mpr ⟨.inr (.inl rfl), hfits, fun hop => ?_⟩,
    validate_eq_none.mpr ⟨.inr (.inr rfl), hfits, fun _ => hinside⟩, fun m a => rfl⟩
  exact absurd hop clear_draws_no_rectangle

end Sys2Proof.Proofs
end

section
/-!
PROOFS. The span (`spec/41_span.md` R66 to R70): first the bytes that a span does not reach, then
the rows of a rectangle drawn in any order, then the pattern that each row receives, and last the
statements that these settle. The bits of one span stand in the part on the commands.
-/

namespace Sys2Proof.Proofs

open Sys2Proof Sys2Proof.Machine

/-! ### What a span does not reach -/

/-- A byte that holds no pixel of the span is kept (R66). -/
theorem drawMaskedSpan_read_of_not_inSpan {base a : Nat} {leftX rightX : Int} (m : Memory)
    (hout : ∀ k < 8, ¬ InSpan base leftX rightX a k) :
    (drawMaskedSpan base leftX rightX m).read a = m.read a := by
  refine BitVec.eq_of_getLsbD_eq fun k hk => ?_
  rw [drawMaskedSpan_bit _ _ _ hk, decide_eq_false (hout k hk), Bool.or_false]

/-! ### The rows in any order -/

section
variable {k : Nat} (hk : k < 8) (l : Latch) (m : Memory) (a : Nat)
include hk

/-- A bit after the spans of a list of rows, whatever their order: its old value, or 1 where one
of the rows has it. -/
theorem foldl_drawMaskedSpan_bit (rows : List Nat) :
    ((rows.foldl (fun m r => drawMaskedSpan (r * l.pitch) l.leftX l.rightX m) m).read a).getLsbD k
        = true ↔
      (m.read a).getLsbD k = true ∨
      ∃ i ∈ rows, InSpan (i * l.pitch) l.leftX l.rightX a k := by
  induction rows generalizing m with
  | nil => simp only [List.foldl_nil, List.not_mem_nil, false_and, exists_false, or_false]
  | cons r rows ih =>
    rw [List.foldl_cons, ih, drawMaskedSpan_bit _ _ _ hk, Bool.or_eq_true, decide_eq_true_iff,
      or_assoc, List.exists_mem_cons_iff]

/-- A bit after the rectangle is drawn: its old value, or 1 where one of its rows has it. -/
theorem drawRectangle_bit :
    ((drawRectangle l m).read a).getLsbD k = true ↔
      (m.read a).getLsbD k = true ∨
      ∃ i ∈ List.range' l.y.toNat l.h.toNat, InSpan (i * l.pitch) l.leftX l.rightX a k := by
  simp only [drawRectangle, drawRows_bit hk, List.mem_range'_1, and_assoc]

end

/-- Two memories that agree on a byte agree on it after the same rectangle. -/
theorem drawRectangle_read_congr (l : Latch) {m n : Memory} {a : Nat} (h : m.read a = n.read a) :
    (drawRectangle l m).read a = (drawRectangle l n).read a := by
  refine BitVec.eq_of_getLsbD_eq fun k hk => ?_
  rw [Bool.eq_iff_iff, drawRectangle_bit hk, drawRectangle_bit hk, h]

/-! ### The pattern of a row -/

/-- A byte of the pattern that every row of the rectangle receives (R70): what the row's span
leaves of a row of zeros. -/
def rowPattern (l : Latch) (b : Nat) : Byte :=
  (drawMaskedSpan 0 l.leftX l.rightX (Memory.fill ⟨[], 0⟩ 0 l.pitch 0x00#8)).read b

/-- The set bits of the pattern are the pixels of the rectangle, in each of its rows. -/
theorem rowPattern_bit {l : Latch} {r b k : Nat} (hk : k < 8) (hb : b < l.pitch)
    (hlo : l.y.toNat ≤ r) (hhi : r < l.bottom) :
    (rowPattern l b).getLsbD k = l.covers r (8 * b + k) := by
  have hzero : (Memory.fill ⟨[], 0⟩ 0 l.pitch 0x00#8).read b = 0x00#8 := by
    rw [Memory.read_fill, if_pos (by omega)]
  rw [rowPattern, drawMaskedSpan_bit _ _ _ hk, hzero, BitVec.getLsbD_zero, Bool.false_or,
    Latch.covers, decide_eq_decide]
  omega

/-- R34 read from the byte: bit `k` of byte `b` of a row is its pixel `8 * b + k`. -/
theorem read_bit_eq_pixel (m : Memory) (pitch r b : Nat) {k : Nat} (hk : k < 8) :
    (m.read (r * pitch + b)).getLsbD k = m.pixel pitch r (8 * b + k) := by
  have hbyte : (8 * b + k) / 8 = b := by omega
  have hbit : (8 * b + k) % 8 = k := by omega
  rw [Memory.pixel, hbyte, hbit]

/-- Every row of the rectangle is ORed with the pattern (R70). -/
theorem drawRectangle_read_row {l : Latch} (hright : l.rightX ≤ (l.cw.toNat : Int)) (m : Memory)
    {r b : Nat} (hlo : l.y.toNat ≤ r) (hhi : r < l.bottom) (hb : b < l.pitch) :
    (drawRectangle l m).read (r * l.pitch + b) = m.read (r * l.pitch + b) ||| rowPattern l b := by
  refine BitVec.eq_of_getLsbD_eq fun k hk => ?_
  rw [BitVec.getLsbD_or, read_bit_eq_pixel _ _ _ _ hk, read_bit_eq_pixel _ _ _ _ hk,
    drawRectangle_pixel m hright r (by omega), rowPattern_bit hk hb hlo hhi]

/-! ### The statements -/

/-- Settles O18: RASTERIZE draws on a canvas of zeros whatever MEM held, and a bit that a rectangle
sets is not changed by setting it again. -/
theorem completionsAreIdempotent : Obligations.CompletionsAreIdempotent := by
  refine ⟨fun l m n a ha => drawRectangle_read_congr l ?_, fun l m a => ?_⟩
  · rw [read_zeroCanvas, read_zeroCanvas, if_pos ha, if_pos ha]
  · refine BitVec.eq_of_getLsbD_eq fun k hk => ?_
    rw [Bool.eq_iff_iff, drawRectEffect, drawRectEffect, drawRectangle_bit hk,
      drawRectangle_bit hk, or_assoc, or_self]

/-- Settles O19: the bits of `InSpan`, by the cases of the span procedure. -/
theorem spanSetsExactlyItsPixels : Obligations.SpanSetsExactlyItsPixels := by
  intro base leftX rightX m a k hk
  exact drawMaskedSpan_bit base m a hk leftX rightX

/-- Settles O20: with byte and bit as quotient and remainder by 8; a span that ends at a byte
boundary has no pixel in byte `rightByte`. -/
theorem singleByteConditionsAgree : Obligations.SingleByteConditionsAgree := by
  intro left right hlt
  simp only [byteIndex_eq, bitOffset_eq]
  refine ⟨by omega, by omega, by omega, fun haligned => ⟨by omega, fun base m => ?_⟩⟩
  exact drawMaskedSpan_read_of_not_inSpan m fun k _ => by omega

/-- Settles O21: the pixels of a span that ends inside the canvas are pixels of its row. -/
theorem spanStaysInItsRow : Obligations.SpanStaysInItsRow := by
  intro base leftX rightX cw m hright
  have hcover := (pitchOf_bounds cw).1
  refine ⟨fun a ha => drawMaskedSpan_read_of_not_inSpan m fun k _ hspan => ?_,
    fun b k hk hpadding => ?_⟩
  · have hlow := hspan.1
    have hhigh := hspan.byte_lt (pitch := pitchOf cw) (by omega)
    omega
  · have hout : ¬ InSpan base leftX rightX (base + b) k := by omega
    rw [drawMaskedSpan_bit _ _ _ hk, decide_eq_false hout, Bool.or_false]

/-- Settles O22: the bits set depend on which rows are drawn and not on their order, and each row
takes the pattern of a row of zeros. -/
theorem rowsAreIndependent : Obligations.RowsAreIndependent := by
  intro l hright
  refine ⟨fun rows m a hperm => BitVec.eq_of_getLsbD_eq fun k hk => ?_,
    rowPattern l, fun m r b => drawRectangle_read_row hright m⟩
  rw [Bool.eq_iff_iff, foldl_drawMaskedSpan_bit hk, drawRectangle_bit hk]
  simp only [hperm.mem_iff]

end Sys2Proof.Proofs
end

section
/-!
PROOFS. The exceptions (`spec/60_exceptions.md`): first the causes of the three result codes as
results of validation, then the error completion of a command, then the steps that change OVR and
ERR, and last the statements that these settle.
-/

namespace Sys2Proof.Proofs

open Sys2Proof Sys2Proof.Machine

/-! ### The causes of an error -/

/-- No result code is above 3 (R71). -/
theorem errorCode_toNat_le (e : ErrorCode) : e.code.toNat ≤ 3 := by
  cases e <;> decide

/-- A word with no command's OP fails validation before its operands count (R72, R75). -/
theorem validate_illegalOp {w : Word} (h : w.toNat % 16 = 0 ∨ 4 ≤ w.toNat % 16) (s : State) :
    validate (s.latched (opField w)) s.memBytes = .illegalCommand := by
  obtain ⟨hillegal, -⟩ := validateReportsFirstCause (s.latched (opField w)) s.memBytes
  refine hillegal.mpr ?_
  rw [← opField_toNat] at h
  exact h

theorem opcodeOf_bounds (i : Instr) : 1 ≤ (opcodeOf i).toNat ∧ (opcodeOf i).toNat ≤ 3 := by
  cases i <;> decide

/-- A canvas larger than MEM fails every command (R73). -/
theorem validate_oversize {s : State} (i : Instr) (h : ¬ s.canvasFits) :
    validate (s.latched (opcodeOf i)) s.memBytes = .invalidInputSize := by
  obtain ⟨-, hsize, -⟩ := validateReportsFirstCause (s.latched (opcodeOf i)) s.memBytes
  exact hsize.mpr ⟨opcodeOf_bounds i, Nat.lt_of_not_le h⟩

/-- The three causes of R74 are together the negation of `rectangleFits`. -/
theorem not_rectangleFits_iff {s : State} :
    ¬ s.rectangleFits ↔ s.rectH.toNat = 0 ∨ s.canvasH.toNat < s.rectY.toNat + s.rectH.toNat ∨
      (s.canvasW.toNat : Int) < s.rectX.toInt + (s.rectW.toNat : Int) := by
  rw [State.rectangleFits]
  omega

/-- A bad rectangle fails RASTERIZE and DRAW_RECT on a canvas that fits MEM (R74). -/
theorem validate_badRectangle {s : State} {op : OpCode} (hop : op.toNat = 1 ∨ op.toNat = 3)
    (hfits : s.canvasFits) (hrect : ¬ s.rectangleFits) :
    validate (s.latched op) s.memBytes = .invalidRectangle := by
  obtain ⟨-, -, hbad⟩ := validateReportsFirstCause (s.latched op) s.memBytes
  exact hbad.mpr ⟨hop, hfits, not_rectangleFits_iff.mp hrect⟩

/-! ### The error completion -/

section
variable {s : State} {e : ErrorCode}

/-- The issue of a command that validation refuses is its error completion (R53). -/
theorem issue_reject {op : OpCode} (hv : validate (s.latched op) s.memBytes = e) (he : e ≠ .none) :
    issue op s = errorComplete e (s.issued op) := by
  subst hv
  rcases issue_cases op s with ⟨hnone, -⟩ | ⟨-, herror⟩
  · exact absurd hnone he
  · exact herror

theorem exec_reject {i : Instr} (hb : s.busy = false)
    (hv : validate (s.latched (opcodeOf i)) s.memBytes = e) (he : e ≠ .none) :
    exec i s = .next (errorComplete e (s.issued (opcodeOf i))) := by
  rw [exec_host i (engineTurn_of_idle hb), hostCommand_of_idle hb, issue_reject hv he]

/-- An issue that leaves an error in ERR was an error completion: MEM and BUSY are as they were and
DONE is 1 (R76, R77). -/
theorem issue_frame_of_error {op : OpCode} (herr : (issue op s).err ≠ .none) :
    (issue op s).mem = s.mem ∧ (issue op s).busy = s.busy ∧ (issue op s).done = true := by
  rcases issue_cases op s with ⟨-, haccept⟩ | ⟨-, herror⟩
  · rw [haccept] at herr
    exact absurd rfl herr
  · rw [herror]
    exact ⟨rfl, rfl, rfl⟩

/-- A CMD write in HOST's turn with BUSY = 0 is an issue (R11). -/
theorem step_idleCmd {w : Word} {rest : List Input} (hb : s.busy = false)
    (hw : s.nextWritesCmd w rest) : step s = .next (issue (opField w) s) := by
  rw [step_nextWritesCmd (engineTurn_of_idle hb) hw, hostCommand_of_idle hb]

/-- An input that writes to CMD, as the host's next line (R11, R48). -/
theorem nextWritesCmd_of_cmdWord {input : Input} {w : Word} {rest : List Input}
    (hi : s.inputs = input :: rest) (hw : input.cmdWord = some w) : s.nextWritesCmd w rest := by
  rcases Input.cmdWord_some hw with rfl | rfl
  · exact .inl hi
  · exact .inr hi

end

/-! ### What changes OVR -/

/-- Only a write to STATUS changes OVR among the registers other than CMD (R13). -/
theorem regWrite_ovr (s : State) (offset : RegOffset) (v : Word) :
    (regWrite s offset v).ovr = s.ovr ∨
    (offset = 0x004#12 ∧ (regWrite s offset v).ovr = (s.ovr && !v.getLsbD 2)) := by
  by_cases hstatus : offset = 0x004#12
  · subst hstatus
    exact .inr ⟨rfl, rfl⟩
  · rw [regWrite, if_neg hstatus]
    split_ifs <;> exact .inl rfl

/-- An issue keeps OVR (R50). -/
theorem issue_ovr (op : OpCode) (s : State) : (issue op s).ovr = s.ovr := by
  rcases issue_cases op s with ⟨-, h⟩ | ⟨-, h⟩ <;> rw [h] <;> rfl

/-- An input keeps OVR, or is a lost command, a write to STATUS or the reset (R79). -/
theorem perform_ovr (input : Input) (s : State) :
    (perform input s).ovr = s.ovr ∨
    (s.busy = true ∧ (∃ w, input.cmdWord = some w) ∧ (perform input s).ovr = true) ∨
    (∃ v, input = .regWrite 32 0x004#12 v ∧ (perform input s).ovr = (s.ovr && !v.getLsbD 2)) ∨
    (input = .reset ∧ (perform input s).ovr = false) := by
  rcases perform_cases input s with ⟨r, h⟩ | ⟨-, -, r, h⟩ | ⟨w, hw, h⟩ |
    ⟨offset, v, hin, -, -, h⟩ | ⟨width, a, v, -, -, h⟩ | ⟨hin, h⟩
  all_goals rw [h]
  · exact .inl rfl
  · exact .inl rfl
  · rcases hostCommand_cases (opField w) s with ⟨hb, hover⟩ | ⟨-, hissue⟩
    · exact .inr (.inl ⟨hb, ⟨w, hw⟩, by rw [hover, overrun_ovr]⟩)
    · exact .inl (by rw [hissue, issue_ovr])
  · rw [retire_ovr]
    rcases regWrite_ovr s offset v with hkept | ⟨rfl, hcleared⟩
    · exact .inl hkept
    · exact .inr (.inr (.inl ⟨v, hin, hcleared⟩))
  · exact .inl rfl
  · exact .inr (.inr (.inr ⟨hin, rfl⟩))

/-- A step keeps OVR, or is a lost command, a write to STATUS or the reset (R79). -/
theorem step_ovr {s t : State} (h : step s = .next t) :
    t.ovr = s.ovr ∨
    (s.busy = true ∧ (∃ w rest, s.nextWritesCmd w rest) ∧ t.ovr = true) ∨
    (∃ v rest, s.inputs = .regWrite 32 0x004#12 v :: rest ∧ t.ovr = (s.ovr && !v.getLsbD 2)) ∨
    ((∃ rest, s.inputs = .reset :: rest) ∧ t.ovr = false) := by
  rcases step_cases h with ⟨-, i, -, rfl⟩ | ⟨-, -, rfl⟩ | ⟨-, input, rest, hi, rfl⟩
  · exact .inl rfl
  · exact .inl rfl
  · rcases perform_ovr input s with hkept | ⟨hb, ⟨w, hw⟩, hset⟩ | ⟨v, rfl, hand⟩ | ⟨rfl, hcleared⟩
    · exact .inl hkept
    · exact .inr (.inl ⟨hb, ⟨w, rest, nextWritesCmd_of_cmdWord hi hw⟩, hset⟩)
    · exact .inr (.inr (.inl ⟨v, rest, hi, hand⟩))
    · exact .inr (.inr (.inr ⟨⟨rest, hi⟩, hcleared⟩))

/-! ### What changes ERR -/

/-- An input keeps ERR, issues a command, or is the reset, which leaves no error (R80, R86). -/
theorem perform_err (input : Input) (s : State) :
    (perform input s).err = s.err ∨
    (s.busy = false ∧ ∃ w, input.cmdWord = some w) ∨
    (input = .reset ∧ (perform input s).err = .none) := by
  rcases perform_cases input s with ⟨r, h⟩ | ⟨-, -, r, h⟩ | ⟨w, hw, h⟩ |
    ⟨offset, v, -, -, -, h⟩ | ⟨width, a, v, -, -, h⟩ | ⟨hin, h⟩
  all_goals rw [h]
  · exact .inl rfl
  · exact .inl rfl
  · rcases hostCommand_cases (opField w) s with ⟨-, hover⟩ | ⟨hb, -⟩
    · exact .inl (by rw [hover, overrun_err])
    · exact .inr (.inl ⟨hb, w, hw⟩)
  · obtain ⟨-, -, herr, -⟩ := regWrite_frame s offset v
    exact .inl (by rw [retire_err, herr])
  · exact .inl rfl
  · exact .inr (.inr ⟨hin, rfl⟩)

/-- While a command is pending ERR is NONE (R50, R54). -/
theorem err_of_inv {s : State} (h : Inv s) (hb : s.busy = true) : s.err = .none := by
  obtain ⟨-, -, -, hpending⟩ := h
  obtain ⟨-, -, herr⟩ := hpending hb
  exact herr

/-- A step keeps ERR, issues a command, or is the reset, which leaves no error. A completion keeps
the NONE that acceptance left (R80). -/
theorem step_err {s t : State} (hinv : Inv s) (h : step s = .next t) :
    t.err = s.err ∨
    (s.busy = false ∧ ∃ w rest, s.nextWritesCmd w rest) ∨
    ((∃ rest, s.inputs = .reset :: rest) ∧ t.err = .none) := by
  rcases step_cases h with ⟨ht, i, -, rfl⟩ | ⟨-, -, rfl⟩ | ⟨-, input, rest, hi, rfl⟩
  · exact .inl (err_of_inv hinv (engineTurn_iff.mp ht).1).symm
  · exact .inl rfl
  · rcases perform_err input s with hkept | ⟨hb, w, hw⟩ | ⟨rfl, hnone⟩
    · exact .inl hkept
    · exact .inr (.inl ⟨hb, w, rest, nextWritesCmd_of_cmdWord hi hw⟩)
    · exact .inr (.inr ⟨⟨rest, hi⟩, hnone⟩)

/-! ### The statements -/

/-- Settles O44, from the ways a step can change OVR. -/
theorem ovrIsSticky : Obligations.OvrIsSticky := by
  intro s t hstep
  rcases step_ovr hstep with hkept | ⟨hb, hcmd, hset⟩ | ⟨v, rest, hi, hand⟩ | ⟨hreset, hcleared⟩
  · refine ⟨fun h0 h1 => ?_, fun h1 h0 => ?_⟩ <;> simp [h0, h1] at hkept
  · exact ⟨fun _ _ => ⟨hb, hcmd⟩, fun _ h0 => by simp [h0] at hset⟩
  · refine ⟨fun h0 h1 => ?_, fun h1 h0 => .inl ⟨v, rest, hi, ?_⟩⟩
    · simp [h0, h1] at hand
    · simpa [h0, h1] using hand
  · exact ⟨fun _ h1 => by simp [h1] at hcleared, fun _ _ => .inr hreset⟩

/-- Settles O45, from the ways a step can change ERR. -/
theorem errKeepsItsCode : Obligations.ErrKeepsItsCode := by
  intro s t hinv hstep hne
  rcases step_err hinv hstep with hkept | hissue | ⟨hreset, -⟩
  · exact absurd hkept hne
  · exact .inl hissue
  · exact .inr hreset

/-- Settles O46: a step that brings a new error is an issue too, and an issue that leaves an error
was an error completion. -/
theorem errorsLeaveMemoryAlone : Obligations.ErrorsLeaveMemoryAlone := by
  intro s t hinv hstep herr hcase
  have hissue : s.busy = false ∧ ∃ w rest, s.nextWritesCmd w rest := by
    rcases hcase with hnew | hissue
    · rcases step_err hinv hstep with hkept | hissue | ⟨-, hnone⟩
      · exact absurd hkept hnew
      · exact hissue
      · exact absurd hnone herr
    · exact hissue
  obtain ⟨hb, w, rest, hw⟩ := hissue
  obtain rfl := Host.Outcome.next.inj ((step_idleCmd hb hw).symm.trans hstep)
  obtain ⟨hmem, hbusy, hdone⟩ := issue_frame_of_error herr
  exact ⟨hmem, hbusy.trans hb, hdone⟩

/-- Settles O11: validation refuses the canvas before it looks at the rectangle. -/
theorem oversizeCanvasIsRejected : Obligations.OversizeCanvasIsRejected := by
  intro s hb hlarge
  have hreject := fun i => exec_reject (i := i) hb (validate_oversize i hlarge) (by decide)
  exact ⟨hreject .rasterize, hreject .clear, hreject .drawRect⟩

/-- Settles O12: CLEAR passes validation whatever the rectangle. -/
theorem badRectangleIsRejected : Obligations.BadRectangleIsRejected := by
  intro s hb hfits hrect
  exact ⟨exec_reject (i := .rasterize) hb (validate_badRectangle (.inl rfl) hfits hrect) (by decide),
    exec_reject (i := .drawRect) hb (validate_badRectangle (.inr rfl) hfits hrect) (by decide),
    _, exec_accept .clear hb (validate_latched .clear hfits (.inl rfl)), rfl⟩

/-- Settles O26: ERR stands in the highest field of STATUS, above three flags. -/
theorem errCodesAreZeroToThree : Obligations.ErrCodesAreZeroToThree := by
  refine ⟨rfl, rfl, rfl, rfl, fun s => ?_⟩
  have hb := s.busy.toNat_le
  have hd := s.done.toNat_le
  have ho := s.ovr.toNat_le
  have he := errorCode_toNat_le s.err
  rw [regRead_status, statusWord_toNat]
  omega

/-- Settles O5: validation refuses the word's OP, so its issue is an error completion. -/
theorem illegalWordCompletesWithError : Obligations.IllegalWordCompletesWithError := by
  intro s w rest hb hw hillegal
  rw [step_idleCmd hb hw, issue_reject (validate_illegalOp hillegal s) (by decide),
    opField_eq_ofNat]
  rfl

end Sys2Proof.Proofs
end

section
/-!
PROOFS. Reset and hazards (`spec/70_reset_and_hazards.md`): first the reset step, then an operand
register read back after its write, then the steps between a command's acceptance and its
completion, and last the statements that these settle.
-/

namespace Sys2Proof.Proofs

open Sys2Proof Sys2Proof.Machine Sys2Proof.Laws

/-! ### The reset step -/

/-- A reset line in the reset line's turn, with BUSY 0 or 1 (R86, R88). -/
theorem step_reset {s : State} {rest : List Input} (ht : s.engineTurn = false)
    (hi : s.inputs = .reset :: rest) : step s = .next (resetEvent s) := by
  rw [step_input ht hi, perform]

theorem resetEvent_inputs_of_next {s : State} {rest : List Input}
    (hi : s.inputs = .reset :: rest) : (resetEvent s).inputs = rest := by
  rw [resetEvent_inputs, hi]
  rfl

/-! ### An operand register after its write -/

/-- The aligned offsets of the operand registers are six (R9). -/
theorem operandOffset_cases {offset : RegOffset} (hlo : 0x008 ≤ offset.toNat)
    (hhi : offset.toNat ≤ 0x01C) (ha : offset.toNat % 4 = 0) :
    offset = 0x008#12 ∨ offset = 0x00C#12 ∨ offset = 0x010#12 ∨ offset = 0x014#12 ∨
      offset = 0x018#12 ∨ offset = 0x01C#12 := by
  simp only [← BitVec.toNat_inj, BitVec.toNat_ofNat]
  omega

/-- An operand register reads back the low 16 bits written to it (R14 to R19). -/
theorem regRead_regWrite_operand (s : State) (v : Word) {offset : RegOffset}
    (hlo : 0x008 ≤ offset.toNat) (hhi : offset.toNat ≤ 0x01C) (ha : offset.toNat % 4 = 0) :
    (regRead (regWrite s offset v) offset).toNat = v.toNat % 65536 := by
  have hlow : regRead (regWrite s offset v) offset = zext32 (v.setWidth 16) := by
    rcases operandOffset_cases hlo hhi ha with rfl | rfl | rfl | rfl | rfl | rfl <;> rfl
  rw [hlow, zext32_toNat, BitVec.toNat_setWidth]

/-- An answer of a port changes no register. -/
@[simp] theorem regRead_answered (s : State) (rest : List Input) (r : Response)
    (offset : RegOffset) : regRead (s.answered rest r) offset = regRead s offset := rfl

/-! ### The lines left after a step -/

/-- A performed line is used up, but a `run` leaves its `poll` (R48). -/
theorem inputsAfter_cons (input : Input) (rest : List Input) :
    inputsAfter (input :: rest) = rest ∨ inputsAfter (input :: rest) = .poll :: rest := by
  cases input with
  | run w => exact .inr rfl
  | _ => exact .inl rfl

theorem hostCommand_inputs (op : OpCode) (s : State) :
    (hostCommand op s).inputs = inputsAfter s.inputs := by
  rcases hostCommand_cases op s with ⟨-, h⟩ | ⟨-, h⟩
  · rw [h, overrun_inputs]
  · rcases issue_cases op s with ⟨-, hi⟩ | ⟨-, hi⟩ <;> rw [h, hi] <;> rfl

/-- Performing an input uses it up, but for a `poll` that is to be repeated (R47). -/
theorem perform_inputs (input : Input) (s : State) :
    (perform input s).inputs = inputsAfter s.inputs ∨ (perform input s).inputs = s.inputs := by
  rcases perform_cases input s with ⟨r, h⟩ | ⟨-, -, r, h⟩ | ⟨w, -, h⟩ | ⟨offset, v, -, -, -, h⟩ |
    ⟨width, a, v, -, -, h⟩ | ⟨-, h⟩
  all_goals rw [h]
  · exact .inl rfl
  · exact .inr rfl
  · exact .inl (hostCommand_inputs _ s)
  · obtain ⟨-, -, -, -, -, -, -, hin, -⟩ := regWrite_frame s offset v
    exact .inl (by rw [retire_inputs, hin])
  · exact .inl rfl
  · exact .inl rfl

/-- A reset comes nearer by at most one line with each line performed. -/
theorem reset_mem_take_of_inputsAfter {n : Nat} {inputs : List Input}
    (h : .reset ∈ (inputsAfter inputs).take n) : .reset ∈ inputs.take (n + 1) := by
  cases inputs with
  | nil => simp [inputsAfter] at h
  | cons input rest =>
    rw [List.take_succ_cons]
    refine List.mem_cons_of_mem _ ?_
    rcases inputsAfter_cons input rest with heq | heq <;> rw [heq] at h
    · exact h
    · cases n with
      | zero => simp at h
      | succ m =>
        have hrest : .reset ∈ rest.take m := by simpa using h
        exact List.take_subset_take_left rest (Nat.le_succ m) hrest

/-! ### A pending command until its completion -/

/-- `t` has the same command pending as `s`, on the same memory, and one step nearer to its
completion. -/
def StaysPending (s t : State) : Prop :=
  t.busy = true ∧ t.latch = s.latch ∧ t.mem = s.mem ∧ t.delay = s.delay - 1

section
variable {s : State}

/-- While a command is pending no input but the reset touches it: the memory port is closed (R32), a
CMD write is lost (R51) and no register write reaches the latch (R92). -/
theorem perform_staysPending (hb : s.busy = true) {input : Input} (hne : input ≠ .reset) :
    StaysPending s (perform input s) := by
  rcases perform_cases input s with ⟨r, h⟩ | ⟨-, -, r, h⟩ | ⟨w, -, h⟩ | ⟨offset, v, -, -, -, h⟩ |
    ⟨width, a, v, -, htakes, -⟩ | ⟨hreset, -⟩
  · rw [h]
    exact ⟨hb, rfl, rfl, rfl⟩
  · rw [h]
    exact ⟨hb, rfl, rfl, rfl⟩
  · rw [h, hostCommand_of_busy hb]
    exact ⟨hb, rfl, rfl, rfl⟩
  · obtain ⟨-, hbusy, -, hlatch, hmem, hdelay, -⟩ := regWrite_frame s offset v
    rw [h]
    exact ⟨hbusy.trans hb, hlatch, hmem, congrArg (· - 1) hdelay⟩
  · have hidle := (memTakes_iff.mp htakes).1
    simp [hb] at hidle
  · exact absurd hreset hne

/-- A step of HOST with `n + 1` steps left to the completion, where no reset comes in the next
`n + 1` lines. -/
theorem step_staysPending {n : Nat} (hb : s.busy = true) (hd : s.delay = n + 1)
    (hreset : .reset ∉ s.inputs.take (n + 1)) :
    ∃ t, step s = .next t ∧ StaysPending s t ∧ .reset ∉ t.inputs.take n := by
  have ht : s.engineTurn = false := engineTurn_of_delay (by omega)
  cases hi : s.inputs with
  | nil =>
    refine ⟨_, step_wait ht hi, ⟨hb, rfl, rfl, rfl⟩, ?_⟩
    simp [hi]
  | cons input rest =>
    have hne : input ≠ .reset := by
      rintro rfl
      simp [hi] at hreset
    refine ⟨_, step_input ht hi, perform_staysPending hb hne, fun hmem => hreset ?_⟩
    rcases perform_inputs input s with heq | heq <;> rw [heq] at hmem
    · exact reset_mem_take_of_inputsAfter hmem
    · exact List.take_subset_take_left s.inputs (Nat.le_succ n) hmem

/-- A pending command that no reset abandons is completed by the ENGINE after its delay, with the
latch and the memory that it had when it was pending first (R55, R93). -/
theorem run_pending {i : Instr} (hb : s.busy = true) (hop : s.latch.op = opcodeOf i)
    (hreset : .reset ∉ s.inputs.take s.delay) :
    ∃ u : State, core.run (s.delay + 1) s = .next (complete (commandEffect i) u) ∧
      u.latch = s.latch ∧ u.mem = s.mem := by
  induction hd : s.delay generalizing s with
  | zero =>
    exact ⟨s, run_next (step_engine (engineTurn_iff.mpr ⟨hb, hd⟩) hop), rfl, rfl⟩
  | succ n ih =>
    rw [hd] at hreset
    obtain ⟨t, hstep, ⟨htb, hlatch, hmem, hdelay⟩, htreset⟩ := step_staysPending hb hd hreset
    rw [hd, Nat.add_sub_cancel] at hdelay
    obtain ⟨u, hrun, hul, hum⟩ :=
      ih htb (by rw [hlatch, hop]) (by rw [hdelay]; exact htreset) hdelay
    exact ⟨u, (run_next hstep).trans hrun, hul.trans hlatch, hum.trans hmem⟩

/-- A pending command is one of the three, since it passed validation (R54). -/
theorem exists_opcodeOf_of_inv (h : Inv s) (hb : s.busy = true) :
    ∃ i, s.latch.op = opcodeOf i :=
  exists_opcodeOf_of_validate (validate_of_inv h hb)

end

/-! ### The statements -/

/-- Settles O50: the pending command is one of the three, and it is completed after its delay on the
memory as it stood. -/
theorem pendingCommandCompletes : Obligations.PendingCommandCompletes := by
  intro s hinv hb hreset
  obtain ⟨i, hop⟩ := exists_opcodeOf_of_inv hinv hb
  obtain ⟨u, hrun, hlatch, hmem⟩ := run_pending hb hop hreset
  refine ⟨_, i, hrun, hop, rfl, rfl, rfl, hlatch, ?_⟩
  rw [complete_mem, hlatch, hmem]

/-- Settles O49: in the ENGINE's turn the first command completes and leaves the host's line, in
HOST's turn the second command is lost. -/
theorem secondCommandIssuedOrDropped : Obligations.SecondCommandIssuedOrDropped := by
  intro s w rest i hinv hb hw hdecode
  refine ⟨fun hd => ?_, fun hd => ?_⟩
  · obtain ⟨first, hop⟩ := exists_opcodeOf_of_inv hinv hb
    have hissue := stepRunsDecodedCommand.1 (complete (commandEffect first) s) w rest i
      (engineTurn_of_idle rfl) hw hdecode
    exact ⟨_, step_engine (engineTurn_iff.mpr ⟨hb, hd⟩) hop, rfl, rfl, rfl, hissue⟩
  · exact ⟨_, cmdWriteWhileBusyOnlySetsOvr s w rest hb hd hw, hb, rfl, rfl, rfl⟩

/-- Settles O48: a register write leaves the pending command alone, and a completion reads the latch
and MEM alone. -/
theorem operandWritesDoNotDisturbPending : Obligations.OperandWritesDoNotDisturbPending := by
  refine ⟨fun s offset v rest hb hd hlo hhi ha hi => ?_,
    fun s t i cw ch x y w h ht hop hexec => ?_⟩
  · have hcmd : offset ≠ 0x000#12 := by
      rintro rfl
      simp at hlo
    obtain ⟨-, hbusy, -, hlatch, hmem, -⟩ := regWrite_frame s offset v
    refine ⟨_, step_regWrite (engineTurn_of_delay hd) hi ha hcmd, ?_, regRead_pitch _, hlatch,
      hbusy.trans hb, hmem⟩
    rw [regRead_answered, regRead_regWrite_operand s v hlo hhi ha]
  · obtain rfl := Host.Outcome.next.inj ((exec_complete ht hop).symm.trans hexec)
    exact exec_complete ht hop

/-- Settles O7. -/
theorem waitingChangesNothing : Obligations.WaitingChangesNothing :=
  fun _ => step_wait

/-- Settles O37: the registers and STATUS fields of the reset event. -/
theorem resetClearsRegisters : Obligations.ResetClearsRegisters := by
  intro s rest ht hi
  have hpitch : regRead (resetEvent s) 0x020#12 = 0 := by
    rw [regRead_pitch, resetEvent_canvasW]
    rfl
  exact ⟨resetEvent s, step_reset ht hi, resetEvent_inputs_of_next hi, rfl, rfl, rfl, rfl, rfl, rfl,
    rfl, rfl, rfl, rfl, hpitch, rfl⟩

/-- Settles O38: after a reset MEM lists no byte. -/
theorem resetLeavesMemoryUnspecified : Obligations.ResetLeavesMemoryUnspecified := by
  refine ⟨fun s rest ht hi => ?_, fun a => rfl⟩
  exact ⟨resetEvent s, step_reset ht hi, rfl, s.mem.read_afterReset⟩

/-- Settles O53: with no line left the block waits, and the only line that can be left is a
reset. -/
theorem endedProgramStaysEnded : Obligations.EndedProgramStaysEnded := by
  rintro s ⟨hinputs, hb⟩
  have ht := engineTurn_of_idle hb
  by_cases hi : s.inputs = []
  · exact ⟨wait s, step_wait ht hi, ⟨hinputs, hb⟩, rfl, fun _ => rfl, fun hne => absurd hi hne⟩
  · obtain ⟨input, rest, hcons⟩ := List.exists_cons_of_ne_nil hi
    rw [hcons, List.forall_mem_cons] at hinputs
    obtain ⟨rfl, hrest⟩ := hinputs
    have hended : (resetEvent s).ended := by
      refine ⟨?_, resetEvent_busy s⟩
      rw [resetEvent_inputs_of_next hcons]
      exact hrest
    exact ⟨resetEvent s, step_reset ht hcons, hended, rfl, fun hnil => absurd hnil hi, fun _ => rfl⟩

end Sys2Proof.Proofs
end
